-- ==== Sys2Proof/Word.lean ====
section
/-! DEFINITION. The word types of the block: cells and registers of 8 and 16 bits, and the three
selector words of 30_encoding.md rule R80 (OPW 32 bits, LSW 16 bits, PHV 8 bits). -/

namespace Sys2Proof

/-- An 8-bit value: a u8 cell (R21), a loop state register (R29). -/
abbrev Byte := BitVec 8

/-- A 16-bit value: a u16 cell or counter, or the two's-complement pattern of an i16 (R12, R21). -/
abbrev Word := BitVec 16

/-- The operation word OPW, the label of one top-level operation (R81). -/
abbrev OpWord := BitVec 32

/-- The loop-state word LSW, the pair (loop, state value) (R84). -/
abbrev LoopStateWord := BitVec 16

/-- The phase value PHV, the value of `EDGE_PHASE` at the entry of the capture handler (R85). -/
abbrev PhaseValue := BitVec 8

/-- One encoded selector, in one of the three formats of R80. -/
inductive InstrWord where
  /-- An operation word (R81). -/
  | opw (w : OpWord)
  /-- A loop-state word (R84). -/
  | lsw (w : LoopStateWord)
  /-- A phase value (R85). -/
  | phv (w : PhaseValue)
deriving DecidableEq, Repr

/-- How many bits a selector's format has (R93: no other length exists). -/
def InstrWord.bits : InstrWord → Nat
  | .opw _ => 32
  | .lsw _ => 16
  | .phv _ => 8

end Sys2Proof
end

