-- ==== Sys2Proof/Syntax.lean ====
section
/-! DEFINITION. The names of cells and loops, and the instructions: one constructor per row of
spec/opcode_table.json (11 operation words, 11 loop-state steps, 2 capture arms). -/

namespace Sys2Proof

/-- The five Atomic Shared Cells (R21, R90). -/
inductive CellId where
  /-- Cell 0, u8: the edge phase (R22). -/
  | edgePhase
  /-- Cell 1, u16: the latest pulse width in ticks (R23). -/
  | pulseWidth
  /-- Cell 2, u8: the drive command (R24). -/
  | driveCmd
  /-- Cell 3, i16: the motor setpoint (R25). -/
  | motorSp
  /-- Cell 4, i16: the steering setpoint (R26). -/
  | steerSp
deriving DecidableEq, Repr

/-- The width of a cell's type (R21). -/
@[reducible] def CellId.width : CellId → Nat
  | .edgePhase => 8
  | .pulseWidth => 16
  | .driveCmd => 8
  | .motorSp => 16
  | .steerSp => 16

/-- The four cooperative loops (R90, R161). -/
inductive LoopId where
  /-- Loop 0: the echo companion loop. -/
  | echo
  /-- Loop 1: the car-control arbiter. -/
  | car
  /-- Loop 2: the motor actuation loop. -/
  | motor
  /-- Loop 3: the steering actuation loop. -/
  | steer
deriving DecidableEq, Repr

/-- All loops, in the order of their ids (R161). -/
def LoopId.all : List LoopId := [.echo, .car, .motor, .steer]

/-- One value for each loop: `x[0..3]` of R20 and of the open parameter `PERIOD` (R7). -/
structure LoopBank (α : Type) where
  echo : α
  car : α
  motor : α
  steer : α
deriving DecidableEq, Repr, Inhabited

/-- `x[L]`. -/
def LoopBank.get {α : Type} (b : LoopBank α) : LoopId → α
  | .echo => b.echo
  | .car => b.car
  | .motor => b.motor
  | .steer => b.steer

/-- `x[L] <- v`. -/
def LoopBank.set {α : Type} (b : LoopBank α) (l : LoopId) (v : α) : LoopBank α :=
  match l with
  | .echo => { b with echo := v }
  | .car => { b with car := v }
  | .motor => { b with motor := v }
  | .steer => { b with steer := v }

/-- `for L in 0..3: x[L] <- f x[L]`. -/
def LoopBank.map {α β : Type} (f : α → β) (b : LoopBank α) : LoopBank β :=
  { echo := f b.echo, car := f b.car, motor := f b.motor, steer := f b.steer }

/-- The instructions. A top-level operation keeps the raw operand fields of its word (`idx`,
`imm`): an operand out of range selects the row all the same and is refused by the operation
(R83, last paragraph). -/
inductive Instr where
  /-- `RESET` (R240). -/
  | reset
  /-- `TICK n` (R133). -/
  | tick (n : Word)
  /-- `EDGE v` (R134); `v` is the whole immediate field. -/
  | edge (v : Word)
  /-- `QUANTUM` (R162). -/
  | quantum
  /-- `GET c` (R111). -/
  | get (c : BitVec 4)
  /-- `PUT c, v` (R112). -/
  | put (c : BitVec 4) (v : Word)
  /-- `GET_ISR c` (R113). -/
  | getIsr (c : BitVec 4)
  /-- `PUT_ISR c, v` (R114). -/
  | putIsr (c : BitVec 4) (v : Word)
  /-- `DISPATCH` (R163). -/
  | dispatch
  /-- `STEP L` (R164). -/
  | step (l : BitVec 4)
  /-- `CAPTURE` (R135). -/
  | capture
  /-- `ECHO.SETUP` (R131). -/
  | echoSetup
  /-- `ECHO.RUN` (R132). -/
  | echoRun
  /-- `CAR.INIT` (R181). -/
  | carInit
  /-- `CAR.DRIVING` (R183). -/
  | carDriving
  /-- `CAR.STOPPED` (R182). -/
  | carStopped
  /-- `CAR.AVOID` (R184). -/
  | carAvoid
  /-- `MOTOR.SETUP` (R200). -/
  | motorSetup
  /-- `MOTOR.RUN` (R201). -/
  | motorRun
  /-- `STEER.SETUP` (R202). -/
  | steerSetup
  /-- `STEER.RUN` (R203). -/
  | steerRun
  /-- `FATAL`: `fatal(L, s)` (R166). -/
  | fatal (l : LoopId) (state : Byte)
  /-- `CAPTURE.RISE` (R136). -/
  | captureRise
  /-- `CAPTURE.FALL` (R137). -/
  | captureFall
deriving DecidableEq, Repr

/-- The three ways an operation is selected (R80). -/
inductive Format where
  /-- A top-level operation, by an operation word. -/
  | opw
  /-- A loop-state step, by a loop-state word. -/
  | lsw
  /-- A capture arm, by a phase value. -/
  | phv
deriving DecidableEq, Repr

/-- The format of an instruction (R80: eleven, eleven with `FATAL`, two). -/
def Instr.format : Instr → Format
  | .reset | .tick _ | .edge _ | .quantum | .get _ | .put _ _ | .getIsr _ | .putIsr _ _
  | .dispatch | .step _ | .capture => .opw
  | .echoSetup | .echoRun | .carInit | .carDriving | .carStopped | .carAvoid | .motorSetup
  | .motorRun | .steerSetup | .steerRun | .fatal _ _ => .lsw
  | .captureRise | .captureFall => .phv

/-- The number of bits of a format (R81, R84, R85). -/
def Format.bits : Format → Nat
  | .opw => 32
  | .lsw => 16
  | .phv => 8

end Sys2Proof
end

