-- ==== Sys2Proof/WellFormed.lean ====
section
/-! DEFINITION. Which instructions have operands in range (R82, R83, R84). An ill-formed
top-level operation still decodes; the operation refuses it by name (R213). -/

namespace Sys2Proof

/-- A cell index names a cell (R21: "A cell index of 5 or more names no cell"). -/
def cellIndexOk (c : BitVec 4) : Bool := c.toNat < 5

/-- A loop id names a loop (R164). -/
def loopIndexOk (l : BitVec 4) : Bool := l.toNat < 4

/-- The immediate of `EDGE` is a level: bits 15:1 are zero (R82). -/
def levelOk (v : Word) : Bool := v.toNat < 2

/-- The immediate of `PUT` fits the cell: bits 15:8 are zero for cells 0 and 2 (R82, R112). -/
def valueOk (c : BitVec 4) (v : Word) : Bool :=
  if c.toNat = 0 ∨ c.toNat = 2 then v.toNat < 256 else true

/-- The recognised states of each loop (R29, R161): ECHO, MOTOR, STEER 0 and 1; CAR 0 to 3. -/
def LoopId.recognises (l : LoopId) (state : Byte) : Bool :=
  match l with
  | .car => state.toNat < 4
  | .echo | .motor | .steer => state.toNat < 2

/-- The operands of an instruction are in the range its encoding admits. `PUT_ISR`'s operand range
is not examined (R114). `FATAL` carries a state value its loop does not recognise (R84). -/
def Instr.wf : Instr → Bool
  | .edge v => levelOk v
  | .get c => cellIndexOk c
  | .put c v => cellIndexOk c && valueOk c v
  | .getIsr c => cellIndexOk c
  | .putIsr c _ => cellIndexOk c
  | .step l => loopIndexOk l
  | .fatal l state => !(l.recognises state)
  | .reset | .tick _ | .quantum | .dispatch | .capture | .echoSetup | .echoRun | .carInit
  | .carDriving | .carStopped | .carAvoid | .motorSetup | .motorRun | .steerSetup | .steerRun
  | .captureRise | .captureFall => true

end Sys2Proof
end

