-- ==== Sys2Proof/Decode.lean ====
section
/-! DEFINITION. Decoding of the three selector formats (R81, R83 to R85, R91), total and rejecting
by name, and the encoder written from the same tables. -/

namespace Sys2Proof

/-- Why a word selects no row. -/
inductive DecodeError where
  /-- The operation word selects no row of R83 (R91). -/
  | reservedEncoding
  /-- A loop-state word whose bits 15:10 are not zero: it names no loop, so no row of R84 has it.
  `DISPATCH` and `STEP` never form such a word (DESIGN CHOICE, log 7). -/
  | noSuchLoop
deriving DecidableEq, Repr

/-- `cls`, bits 31:28 (R81). -/
def OpWord.cls (w : OpWord) : BitVec 4 := w.extractLsb' 28 4
/-- `op`, bits 27:24 (R81). -/
def OpWord.op (w : OpWord) : BitVec 4 := w.extractLsb' 24 4
/-- `idx`, bits 23:20 (R81). -/
def OpWord.idx (w : OpWord) : BitVec 4 := w.extractLsb' 20 4
/-- `rsv`, bits 19:16 (R81). -/
def OpWord.rsv (w : OpWord) : BitVec 4 := w.extractLsb' 16 4
/-- `imm`, bits 15:0 (R81). -/
def OpWord.imm (w : OpWord) : Word := w.extractLsb' 0 16

/-- Accept `i` when the fields that its row fixes to zero are zero (R83), else the word is reserved
(R91). -/
def fixedZero (zero : Bool) (i : Instr) : Except DecodeError Instr :=
  if zero then .ok i else .error .reservedEncoding

/-- Decode an operation word: the row of R83 it selects, with the fields the mask leaves free as
operands; every other word is reserved (R91). -/
def decodeOpw (w : OpWord) : Except DecodeError Instr :=
  let idx := OpWord.idx w
  let imm := OpWord.imm w
  let rsv0 := OpWord.rsv w == 0#4
  let idx0 := idx == 0#4
  let imm0 := imm == 0#16
  match (OpWord.cls w).toNat, (OpWord.op w).toNat with
  | 0, 0 => fixedZero (rsv0 && idx0 && imm0) .reset
  | 0, 1 => fixedZero (rsv0 && idx0) (.tick imm)
  | 0, 2 => fixedZero (rsv0 && idx0) (.edge imm)
  | 0, 3 => fixedZero (rsv0 && idx0 && imm0) .quantum
  | 1, 0 => fixedZero (rsv0 && imm0) (.get idx)
  | 1, 1 => fixedZero rsv0 (.put idx imm)
  | 1, 2 => fixedZero (rsv0 && imm0) (.getIsr idx)
  | 1, 3 => fixedZero rsv0 (.putIsr idx imm)
  | 2, 0 => fixedZero (rsv0 && idx0 && imm0) .dispatch
  | 2, 1 => fixedZero (rsv0 && imm0) (.step idx)
  | 3, 0 => fixedZero (rsv0 && idx0 && imm0) .capture
  | _, _ => .error .reservedEncoding

/-- The loop that a 4-bit id field names (R90). -/
def LoopId.ofIndex (l : BitVec 4) : Option LoopId :=
  match l.toNat with
  | 0 => some .echo
  | 1 => some .car
  | 2 => some .motor
  | 3 => some .steer
  | _ => none

/-- The id of a loop as a 4-bit field (R90). -/
def LoopId.index : LoopId → BitVec 4
  | .echo => 0#4
  | .car => 1#4
  | .motor => 2#4
  | .steer => 3#4

/-- The cell that a 4-bit index field names (R21, R90). -/
def CellId.ofIndex (c : BitVec 4) : Option CellId :=
  match c.toNat with
  | 0 => some .edgePhase
  | 1 => some .pulseWidth
  | 2 => some .driveCmd
  | 3 => some .motorSp
  | 4 => some .steerSp
  | _ => none

/-- The index of a cell as a 4-bit field (R21, R90). -/
def CellId.index : CellId → BitVec 4
  | .edgePhase => 0#4
  | .pulseWidth => 1#4
  | .driveCmd => 2#4
  | .motorSp => 3#4
  | .steerSp => 4#4

/-- The loop-state step that loop `l` in state `state` selects (R84, R92): ten rows, and `FATAL` for
every other state value. -/
def decodeLoopState (l : LoopId) (state : Byte) : Instr :=
  match l, state.toNat with
  | .echo, 0 => .echoSetup
  | .echo, 1 => .echoRun
  | .car, 0 => .carInit
  | .car, 1 => .carDriving
  | .car, 2 => .carStopped
  | .car, 3 => .carAvoid
  | .motor, 0 => .motorSetup
  | .motor, 1 => .motorRun
  | .steer, 0 => .steerSetup
  | .steer, 1 => .steerRun
  | l, _ => .fatal l state

/-- `loop`, bits 11:8 of a loop-state word (R84). -/
def LoopStateWord.loop (w : LoopStateWord) : BitVec 4 := w.extractLsb' 8 4
/-- `state`, bits 7:0 of a loop-state word (R84). -/
def LoopStateWord.state (w : LoopStateWord) : Byte := w.extractLsb' 0 8
/-- Bits 15:12 of a loop-state word, always zero (R84). -/
def LoopStateWord.zero (w : LoopStateWord) : BitVec 4 := w.extractLsb' 12 4

/-- Form the loop-state word of loop `l` in state `state` (R84). -/
def LoopStateWord.form (l : LoopId) (state : Byte) : LoopStateWord := 0#4 ++ l.index ++ state

/-- Decode a loop-state word (R84). -/
def decodeLsw (w : LoopStateWord) : Except DecodeError Instr :=
  if LoopStateWord.zero w = 0#4 then
    match LoopId.ofIndex (LoopStateWord.loop w) with
    | some l => .ok (decodeLoopState l (LoopStateWord.state w))
    | none => .error .noSuchLoop
  else .error .noSuchLoop

/-- Decode a phase value (R85): 0 selects the rise arm, every other value the fall arm (D27). -/
def decodePhv (w : PhaseValue) : Instr :=
  if w = 0#8 then .captureRise else .captureFall

/-- Decode a selector of any format. -/
def decode : InstrWord → Except DecodeError Instr
  | .opw w => decodeOpw w
  | .lsw w => decodeLsw w
  | .phv w => .ok (decodePhv w)

/-- Assemble an operation word from its fields (R81). -/
def OpWord.make (cls op idx rsv : BitVec 4) (imm : Word) : OpWord :=
  cls ++ op ++ idx ++ rsv ++ imm

/-- The word of an instruction (R83, R84, R85). `CAPTURE.FALL` is written as the phase value 1 the
source gives; the other non-zero phase values are not produced. -/
def encode : Instr → InstrWord
  | .reset => .opw (OpWord.make 0 0 0 0 0)
  | .tick n => .opw (OpWord.make 0 1 0 0 n)
  | .edge v => .opw (OpWord.make 0 2 0 0 v)
  | .quantum => .opw (OpWord.make 0 3 0 0 0)
  | .get c => .opw (OpWord.make 1 0 c 0 0)
  | .put c v => .opw (OpWord.make 1 1 c 0 v)
  | .getIsr c => .opw (OpWord.make 1 2 c 0 0)
  | .putIsr c v => .opw (OpWord.make 1 3 c 0 v)
  | .dispatch => .opw (OpWord.make 2 0 0 0 0)
  | .step l => .opw (OpWord.make 2 1 l 0 0)
  | .capture => .opw (OpWord.make 3 0 0 0 0)
  | .echoSetup => .lsw (LoopStateWord.form .echo 0)
  | .echoRun => .lsw (LoopStateWord.form .echo 1)
  | .carInit => .lsw (LoopStateWord.form .car 0)
  | .carDriving => .lsw (LoopStateWord.form .car 1)
  | .carStopped => .lsw (LoopStateWord.form .car 2)
  | .carAvoid => .lsw (LoopStateWord.form .car 3)
  | .motorSetup => .lsw (LoopStateWord.form .motor 0)
  | .motorRun => .lsw (LoopStateWord.form .motor 1)
  | .steerSetup => .lsw (LoopStateWord.form .steer 0)
  | .steerRun => .lsw (LoopStateWord.form .steer 1)
  | .fatal l state => .lsw (LoopStateWord.form l state)
  | .captureRise => .phv 0#8
  | .captureFall => .phv 1#8

/-- The instruction a row's word is read as, by the row's width in bits (32: OPW; 16: LSW;
8: PHV). -/
def decodeTableWord (nbits w : Nat) : Option Instr :=
  match nbits with
  | 32 => (decode (.opw (BitVec.ofNat 32 w))).toOption
  | 16 => (decode (.lsw (BitVec.ofNat 16 w))).toOption
  | 8 => (decode (.phv (BitVec.ofNat 8 w))).toOption
  | _ => none

end Sys2Proof
end

