-- ==== Sys2Proof/Config.lean ====
section
/-! DEFINITION. The open parameters of R7, as plain data whose types hold the constraints, and the
one configuration of the machine after reset, which is left free. The constants the spec fixes
(R5, R6) stand in Machine/Constants.lean. -/

namespace Sys2Proof

/-- A 16-bit value that is not zero: 1..65535 (`PERIOD[L]`, `WDT_TIMEOUT`), or the pattern of an i16
other than 0 (`STEER_DEFLECT`). Stored less one, so that zero cannot be written (R7, R250, U14). -/
structure NonZero16 where
  pred : Fin 65535
deriving DecidableEq, Repr, Inhabited

/-- The value itself. -/
def NonZero16.val (x : NonZero16) : Word := BitVec.ofNat 16 (x.pred.val + 1)

/-- An i16 greater than zero, 1..32767, stored less one (`MOTOR_FWD`, R7). -/
structure PosI16 where
  pred : Fin 32767
deriving DecidableEq, Repr, Inhabited

/-- The value itself, as a two's-complement pattern. -/
def PosI16.val (x : PosI16) : Word := BitVec.ofNat 16 (x.pred.val + 1)

/-- A positive integer, stored less one (`PRESCALER`, `DIST_NUM`, `DIST_DEN`, R7). -/
structure PosNat where
  pred : Nat
deriving DecidableEq, Repr, Inhabited

/-- The value itself. -/
def PosNat.val (x : PosNat) : Nat := x.pred + 1

/-- The open parameters (R7). A configuration outside the constraints cannot be written
(93_implementation_defined.md U14). -/
structure Config where
  /-- `PHASE_SEED`, true for 1 (R139). -/
  phaseSeed : Bool
  /-- `AVOID_MOTOR_CLOSE` (R185). -/
  avoidMotorClose : Word
  /-- `AVOID_MOTOR_CLEAR` (R185). -/
  avoidMotorClear : Word
  /-- `MOTOR_FWD` > 0 (R185). -/
  motorFwd : PosI16
  /-- `STEER_DEFLECT` ≠ `STEER_NEUTRAL` (R185). -/
  steerDeflect : NonZero16
  /-- `PW_INIT` (R23, R242). -/
  pwInit : Word
  /-- `PERIOD[L]` ≥ 1 (R161, R250). -/
  period : LoopBank NonZero16
  /-- `WDT_TIMEOUT` ≥ 1 (R166). -/
  wdtTimeout : NonZero16
  /-- `PRESCALER`; no rule reads it (R7). -/
  prescaler : PosNat
  /-- `DIST_NUM`; read by `DIST` only (R141). -/
  distNum : PosNat
  /-- `DIST_DEN` ≥ 1; read by `DIST` only (R141). -/
  distDen : PosNat
deriving DecidableEq, Repr, Inhabited

/-- The parameters as bare numbers, before the constraints of R7 are looked at. -/
structure RawConfig where
  phaseSeed : Nat
  avoidMotorClose : Int
  avoidMotorClear : Int
  motorFwd : Int
  steerDeflect : Int
  pwInit : Nat
  period : LoopBank Nat
  wdtTimeout : Nat
  prescaler : Nat
  distNum : Nat
  distDen : Nat
deriving DecidableEq, Repr

/-- 1..65535, or nothing. -/
def NonZero16.ofNat? (n : Nat) : Option NonZero16 :=
  if h : 0 < n ∧ n ≤ 65535 then some ⟨⟨n - 1, by omega⟩⟩ else none

/-- An i16 pattern, or nothing when the integer is outside -32768..32767 (R12). -/
def i16? (v : Int) : Option Word :=
  if -32768 ≤ v ∧ v ≤ 32767 then some (BitVec.ofInt 16 v) else none

/-- A positive i16, or nothing. -/
def PosI16.ofInt? (v : Int) : Option PosI16 :=
  if h : 0 < v ∧ v ≤ 32767 then some ⟨⟨v.toNat - 1, by omega⟩⟩ else none

/-- A positive integer, or nothing. -/
def PosNat.ofNat? (n : Nat) : Option PosNat :=
  if 0 < n then some ⟨n - 1⟩ else none

/-- A period for every loop, or nothing. -/
def periods? (p : LoopBank Nat) : Option (LoopBank NonZero16) := do
  return { echo := ← NonZero16.ofNat? p.echo, car := ← NonZero16.ofNat? p.car,
           motor := ← NonZero16.ofNat? p.motor, steer := ← NonZero16.ofNat? p.steer }

/-- Configuration time: numbers outside the constraints of R7 are no configuration of the block
(U14: "refuse at configuration time"). -/
def RawConfig.check (r : RawConfig) : Option Config := do
  let seed ← if r.phaseSeed < 2 then some (r.phaseSeed == 1) else none
  let close ← i16? r.avoidMotorClose
  let clear ← i16? r.avoidMotorClear
  let fwd ← PosI16.ofInt? r.motorFwd
  let defl ← i16? r.steerDeflect
  let defl ← NonZero16.ofNat? defl.toNat
  let pw ← if r.pwInit < 65536 then some (BitVec.ofNat 16 r.pwInit) else none
  return { phaseSeed := seed, avoidMotorClose := close, avoidMotorClear := clear, motorFwd := fwd,
           steerDeflect := defl, pwInit := pw, period := ← periods? r.period,
           wdtTimeout := ← NonZero16.ofNat? r.wdtTimeout, prescaler := ← PosNat.ofNat? r.prescaler,
           distNum := ← PosNat.ofNat? r.distNum, distDen := ← PosNat.ofNat? r.distDen }

/-- The configuration of the machine whose reset state is `State.reset`. The spec leaves every one
of its fields open (R7), so nothing is known of it: a claim about it holds for every legal
configuration. -/
opaque Config.hardware : Config

end Sys2Proof
end

