-- ==== Sys2Proof/Machine/State.lean ====
section
/-! DEFINITION. The state of the block (R20), the model's own fields beside it, the reasons a step
can stop, and the state after power-on (R45). -/

namespace Sys2Proof.Machine

open Sys2Proof

/-- The cell file `CELL[0..4]`, each cell at its type's width (R21). The two i16 cells hold
two's-complement patterns (R12, log 11). -/
structure CellFile where
  edgePhase : Byte
  pulseWidth : Word
  driveCmd : Byte
  motorSp : Word
  steerSp : Word
deriving DecidableEq, Repr

/-- A record of the diagnostic sink (R42, R211): the block appends this one kind only. -/
inductive DiagRecord where
  /-- `IllegalState(L, s)`: loop `L` was dispatched with the unrecognised state value `s`. -/
  | illegalState (loop : LoopId) (state : Byte)
deriving DecidableEq, Repr

/-- The state tuple of R20, and after it the model's own fields. One-bit elements are Bool, true
for 1 (R89). -/
structure State where
  /-- `CELL[0..4]` (R21). -/
  cells : CellFile
  /-- `ST[0..3]` (R29). -/
  st : LoopBank Byte
  /-- `WAKE[0..3]` (R30). -/
  wake : LoopBank Word
  /-- `TCNT` (R31). -/
  tcnt : Word
  /-- `ES`, true for rising (R32). -/
  es : Bool
  /-- `CAPIE` (R33). -/
  capie : Bool
  /-- `CAPF` (R34). -/
  capf : Bool
  /-- `ARMED` (R35). -/
  armed : Bool
  /-- `TRIG` (R36). -/
  trig : Bool
  /-- `ECHO_IN` (R37). -/
  echoIn : Bool
  /-- `IE` (R38). -/
  ie : Bool
  /-- `FATAL_F` (R39). -/
  fatalF : Bool
  /-- `WDT_ARMED` (R40). -/
  wdtArmed : Bool
  /-- `WDT_CNT` (R40). -/
  wdtCnt : Word
  /-- `MOTOR_OUT` (R41). -/
  motorOut : Word
  /-- `STEER_OUT` (R41). -/
  steerOut : Word
  /-- `DIAG`, oldest record first (R42). -/
  diag : List DiagRecord
  /-- The model's own: the open parameters of R7 (DESIGN CHOICE, log 1). No operation writes them
  (R44, R72). -/
  cfg : Config
  /-- The model's own: `EXT_WRITES_ONLY_CMD` of U4 (DESIGN CHOICE, log 4). -/
  extWritesOnlyCmd : Bool
  /-- The model's own: the operation words of the trace still to come (R9; DESIGN CHOICE, log 2). -/
  trace : List OpWord
  /-- The model's own: the result of the last operation (R10; DESIGN CHOICE, log 3). -/
  result : Option Word
deriving DecidableEq, Repr

/-- The one way the machine stops without an operation to refuse. -/
inductive Fault where
  /-- No operation has been presented: the trace has ended. Raised by `step` alone. Safe: the model
  stops where the hardware waits (log 18). -/
  | traceEnded
deriving DecidableEq, Repr

/-- The refusal reasons of R213 and the model's own. A refusal says that the spec gives the
operation no meaning in that state (R10); the run ends there (log 5). -/
inductive Refusal where
  /-- An instruction without a meaning in this model; no arm raises it. Safe. -/
  | notModelled (mnemonic : String)
  /-- `ReservedEncoding`: the word selects no row (R91). Raised by `step`. Safe. -/
  | reservedEncoding
  /-- `BadIndex`: a cell index of 5 or more, or a loop id of 4 or more (R110, R164). Raised by the
  cell operations and `STEP`. Safe. -/
  | badIndex
  /-- `ContractViolation`: a top-level `GET_ISR` or `PUT_ISR` (R113, R114, R212). Safe: on the
  hardware the misuse is not detected (R244). -/
  | contractViolation
  /-- `OperandRange`: a value above 255 for a u8 cell, or an `EDGE` immediate above 1 (R82).
  Raised by `PUT` and `EDGE`. Safe. -/
  | operandRange
  /-- `NotEnabled`: `CAPTURE` without `CAPF` = `CAPIE` = `IE` = 1, or `STEP` while frozen (R213).
  Safe. -/
  | notEnabled
  /-- A `PUT` to a cell other than `DRIVE_CMD` while `EXT_WRITES_ONLY_CMD` is set (U4, log 4).
  Safe. -/
  | notDesignatedWriter
deriving DecidableEq, Repr

/-- The state at first power-on of a block with the parameters `c` (R45, R241, R242; log 9). -/
def State.powerOn (c : Config) : State where
  cells := { edgePhase := 0, pulseWidth := c.pwInit, driveCmd := 0, motorSp := 0, steerSp := 0 }
  st := { echo := 0, car := 0, motor := 0, steer := 0 }
  wake := { echo := 0, car := 0, motor := 0, steer := 0 }
  tcnt := 0
  es := false
  capie := false
  capf := false
  armed := false
  trig := false
  echoIn := false
  ie := true
  fatalF := false
  wdtArmed := false
  wdtCnt := 0
  motorOut := 0
  steerOut := 0
  diag := []
  cfg := c
  extWritesOnlyCmd := false
  trace := []
  result := none

/-- The machine right after reset (R45), its open parameters free (log 1) and no operation presented
yet (log 2). -/
def State.reset : State := State.powerOn Config.hardware

end Sys2Proof.Machine
end

