-- ==== Sys2Proof/Machine/Constants.lean ====
section
/-! DEFINITION. The constants the spec fixes (R5, R6), the loop table's priorities (R161), the state
codes (R87, R88), the cause code (R211) and the pure function `DIST` (R141). Where the spec marks a
value as its own decision, the model follows it (log 13). -/

namespace Sys2Proof.Machine

open Sys2Proof

/-- `THRESHOLD`, in ticks (R5, R186). -/
def threshold : Nat := 150

/-- `CMD_STOP` (R86). -/
def cmdStop : Byte := 0#8
/-- `CMD_DRIVE` (R86). -/
def cmdDrive : Byte := 1#8
/-- `CMD_AVOID` (R86). -/
def cmdAvoid : Byte := 2#8

/-- `STEER_NEUTRAL` (R26, D9). -/
def steerNeutral : Word := 0#16

/-- The steady state of the ECHO, MOTOR and STEER loops (R88, D12). -/
def steadyState : Byte := 1#8

/-- The car-control states that a step can make the next one (R87; no step makes `init` the next
state, R185). -/
inductive CarState where
  /-- State 1. -/
  | driving
  /-- State 2, the safe default. -/
  | stopped
  /-- State 3, obstacle-avoid. -/
  | avoid
deriving DecidableEq, Repr

/-- The number of a car-control state (R87). -/
def CarState.code : CarState → Byte
  | .driving => 1#8
  | .stopped => 2#8
  | .avoid => 3#8

/-- `PRIO[L]`; the larger runs first (R161, D11). -/
def LoopId.prio : LoopId → Nat
  | .echo => 1
  | .car => 2
  | .motor => 4
  | .steer => 3

/-- The cause code of a diagnostic record: 1, the only code there is (R211). -/
def DiagRecord.cause : DiagRecord → Nat
  | .illegalState _ _ => 1

/-- The source's reference values of three open parameters: `PHASE_SEED` = 1, and 0 for both motor
setpoints of obstacle-avoid (R5). A configuration need not have them (R7). -/
def isReference (c : Config) : Bool :=
  c.phaseSeed && c.avoidMotorClose == 0#16 && c.avoidMotorClear == 0#16

/-- `DIST(pw)`, the conversion to a distance; no rule of the block reads it (R141). -/
def pulseDistance (c : Config) (pw : Word) : Nat := pw.toNat * c.distNum.val / c.distDen.val

end Sys2Proof.Machine
end

