-- ==== Sys2Proof/Machine/Ops.lean ====
section
/-! DEFINITION. The named operations every meaning is built from: reading and writing one cell
(R110 to R116), the counters (R16), entering and leaving the capture handler (R216), the fatal
path (R166) and its way out (R168), and reset (R240). -/

namespace Sys2Proof.Machine

open Sys2Proof

/-- `CELL[c]` (R21). -/
def readCell (c : CellId) (s : State) : BitVec c.width :=
  match c with
  | .edgePhase => s.cells.edgePhase
  | .pulseWidth => s.cells.pulseWidth
  | .driveCmd => s.cells.driveCmd
  | .motorSp => s.cells.motorSp
  | .steerSp => s.cells.steerSp

/-- `CELL[c] <- v` (R21). -/
def writeCell (c : CellId) (v : BitVec c.width) (s : State) : State :=
  match c with
  | .edgePhase => { s with cells := { s.cells with edgePhase := v } }
  | .pulseWidth => { s with cells := { s.cells with pulseWidth := v } }
  | .driveCmd => { s with cells := { s.cells with driveCmd := v } }
  | .motorSp => { s with cells := { s.cells with motorSp := v } }
  | .steerSp => { s with cells := { s.cells with steerSp := v } }

/-- `IE <- 0` around `action`, then `IE` restored exactly as it was, never set (R116). -/
def withMask {α : Type} (action : State → α × State) (s : State) : α × State :=
  let saved := s.ie
  let r := action { s with ie := false }
  (r.1, { r.2 with ie := saved })

/-- `cell_get(c)`: cooperative-path read (R111). -/
def cellGet (c : CellId) (s : State) : BitVec c.width × State :=
  withMask (fun t => (readCell c t, t)) s

/-- `cell_put(c, v)`: cooperative-path write (R112). -/
def cellPut (c : CellId) (v : BitVec c.width) (s : State) : State :=
  (withMask (fun t => ((), writeCell c v t)) s).2

/-- `cell_get_isr(c)`: interrupt-path read, no mask (R113). -/
def cellGetIsr (c : CellId) (s : State) : BitVec c.width := readCell c s

/-- `cell_put_isr(c, v)`: interrupt-path write, no mask (R114). -/
def cellPutIsr (c : CellId) (v : BitVec c.width) (s : State) : State := writeCell c v s

/-- `ST[L] <- v` (R29). -/
def setSt (l : LoopId) (v : Byte) (s : State) : State := { s with st := s.st.set l v }

/-- `WAKE[L] <- v` (R30). -/
def setWake (l : LoopId) (v : Word) (s : State) : State := { s with wake := s.wake.set l v }

/-- One count down, stopping at 0 (R16 (b), (c)). -/
def countDown (v : Word) : Word := if v.toNat > 0 then v - 1#16 else v

/-- `do_reset()` (R240). `ECHO_IN` and `DIAG` are not written (R241), nor are the model's own
fields (log 16). -/
def doReset (s : State) : State :=
  { s with
    cells :=
      { edgePhase := 0#8, pulseWidth := s.cfg.pwInit, driveCmd := 0#8, motorSp := 0#16,
        steerSp := 0#16 }
    st := { echo := 0#8, car := 0#8, motor := 0#8, steer := 0#8 }
    wake := { echo := 0#16, car := 0#16, motor := 0#16, steer := 0#16 }
    tcnt := 0#16, es := false, capie := false, capf := false, armed := false, trig := false
    ie := true
    fatalF := false, wdtArmed := false, wdtCnt := 0#16
    motorOut := 0#16, steerOut := 0#16 }

/-- `fatal(L, s)`: taking the `IllegalState` exception (R166, R217). The pair is saved in the
diagnostic record, the watchdog is armed and the block freezes; nothing else changes. -/
def fatal (l : LoopId) (state : Byte) (s : State) : State :=
  { s with
    diag := s.diag ++ [.illegalState l state]
    wdtArmed := true
    wdtCnt := s.cfg.wdtTimeout.val
    fatalF := true }

/-- The expiry clause of `QUANTUM`, the watchdog's own part in the block (R9, R168): with the count at
0 it "forces a full system restart". -/
def watchdogExpiry (s : State) : State := if s.wdtCnt.toNat = 0 then doReset s else s

/-- The watchdog's part of a quantum: while it is armed it counts down, and at 0 it restarts the
block. This is the only return from the fatal path but `RESET` (R162, R168, R218). -/
def watchdogTick (s : State) : State :=
  if s.wdtArmed then watchdogExpiry { s with wdtCnt := countDown s.wdtCnt } else s

/-- The next `QUANTUM` brings `WDT_CNT` to 0 while `WDT_ARMED` = 1 (R168). -/
def watchdogExpires (s : State) : Bool := s.wdtArmed && (countDown s.wdtCnt).toNat == 0

/-- Entry of the capture handler: nothing is saved, `CAPF` is cleared (R135, R216). -/
def captureEntry (s : State) : State := { s with capf := false }

/-- Return from the capture handler: "Return restores nothing, because nothing was saved" (R216). -/
def captureReturn (s : State) : State := s

end Sys2Proof.Machine
end

