-- ==== Sys2Proof/Machine/Operands.lean ====
section
/-! DEFINITION. How each operation reads its operands (R82), and the extension of a cell's value to
the 16-bit result of `GET` (R111). -/

namespace Sys2Proof.Machine

open Sys2Proof

/-- `TICK`: `n = zext(imm)` (R82). -/
def tickCount (imm : Word) : Nat := imm.toNat

/-- `EDGE`: `v = imm[0]`, or nothing when `imm[15:1]` is not zero (R82). -/
def edgeLevel (imm : Word) : Option Bool :=
  if imm.extractLsb' 1 15 = 0#15 then some (imm.getLsbD 0) else none

/-- `PUT`: the immediate as a value of cell `c`'s type, or nothing when a u8 cell is given bits
above bit 7 (R82, R112). -/
def putValue (c : CellId) (imm : Word) : Option (BitVec c.width) :=
  match c with
  | .edgePhase => if imm.extractLsb' 8 8 = 0#8 then some (imm.extractLsb' 0 8) else none
  | .pulseWidth => some imm
  | .driveCmd => if imm.extractLsb' 8 8 = 0#8 then some (imm.extractLsb' 0 8) else none
  | .motorSp => some imm
  | .steerSp => some imm

/-- `ext16(c, v)`: zero extension of a u8 value, the same 16 bits otherwise (R111, R16 (g)). -/
def ext16 (c : CellId) (v : BitVec c.width) : Word := v.setWidth 16

/-- The value of an i16 pattern as an integer (R12, `as_i16`). -/
def asI16 (v : Word) : Int := v.toInt

end Sys2Proof.Machine
end

