-- ==== Sys2Proof/Machine/CellAccess.lean ====
section
/-! DEFINITION. The cell access operations `GET`, `PUT`, `GET_ISR`, `PUT_ISR` (40_cell_access.md). -/

namespace Sys2Proof.Machine

open Sys2Proof

/-- `GET c` (R111): the value of the cell, read on the masked path, is the result. -/
def execGet (c : BitVec 4) (s : State) : Host.Outcome State Fault Refusal :=
  match CellId.ofIndex c with
  | none => .refused .badIndex
  | some cell =>
    let r := cellGet cell s
    .next { r.2 with result := some (ext16 cell r.1) }

/-- `PUT c, v` (R112). The primitive does not check ownership; the flag of U4 does (log 4). -/
def execPut (c : BitVec 4) (v : Word) (s : State) : Host.Outcome State Fault Refusal :=
  match CellId.ofIndex c with
  | none => .refused .badIndex
  | some cell =>
    match putValue cell v with
    | none => .refused .operandRange
    | some x =>
      if s.extWritesOnlyCmd && cell != .driveCmd then .refused .notDesignatedWriter
      else .next (cellPut cell x s)

/-- `GET_ISR c` at top level (R113): refused, the index first. -/
def execGetIsr (c : BitVec 4) (_s : State) : Host.Outcome State Fault Refusal :=
  match CellId.ofIndex c with
  | none => .refused .badIndex
  | some _ => .refused .contractViolation

/-- `PUT_ISR c, v` at top level (R114): refused, the index first; the operand range is not
examined. -/
def execPutIsr (c : BitVec 4) (_v : Word) (_s : State) : Host.Outcome State Fault Refusal :=
  match CellId.ofIndex c with
  | none => .refused .badIndex
  | some _ => .refused .contractViolation

end Sys2Proof.Machine
end

