-- ==== Sys2Proof/Machine/Actuation.lean ====
section
/-! DEFINITION. The actuation steps (44_actuation.md): each loop reads its setpoint once per
iteration on the masked path and copies it to its latch. -/

namespace Sys2Proof.Machine

open Sys2Proof

/-- `MOTOR.SETUP` (R200). -/
def motorSetup (s : State) : State := setSt .motor steadyState s

/-- `MOTOR.RUN` (R201). -/
def motorRun (s : State) : State :=
  let r := cellGet .motorSp s
  { r.2 with motorOut := r.1 }

/-- `STEER.SETUP` (R202). -/
def steerSetup (s : State) : State := setSt .steer steadyState s

/-- `STEER.RUN` (R203). -/
def steerRun (s : State) : State :=
  let r := cellGet .steerSp s
  { r.2 with steerOut := r.1 }

/-- The step `MOTOR.SETUP` by itself (log 8). -/
def execMotorSetup (s : State) : Host.Outcome State Fault Refusal := .next (motorSetup s)

/-- The step `MOTOR.RUN` by itself (log 8). -/
def execMotorRun (s : State) : Host.Outcome State Fault Refusal := .next (motorRun s)

/-- The step `STEER.SETUP` by itself (log 8). -/
def execSteerSetup (s : State) : Host.Outcome State Fault Refusal := .next (steerSetup s)

/-- The step `STEER.RUN` by itself (log 8). -/
def execSteerRun (s : State) : Host.Outcome State Fault Refusal := .next (steerRun s)

end Sys2Proof.Machine
end

