-- ==== Sys2Proof/Machine/Arbitration.lean ====
section
/-! DEFINITION. The car-control arbitration steps (43_arbitration.md): `CAR.INIT`, `CAR.DRIVING`,
`CAR.STOPPED`, `CAR.AVOID`, over the shared output function `emit`. -/

namespace Sys2Proof.Machine

open Sys2Proof

/-- Write the two setpoints, the motor's first (R185, D33). -/
def putSetpoints (motor steer : Word) (s : State) : State :=
  cellPut .steerSp steer (cellPut .motorSp motor s)

/-- `emit(n)`: the setpoints of state `n` (R185). The pulse width is read in obstacle-avoid only and
compared unsigned with the threshold; 150 is on the clear side (R186). -/
def emit (n : CarState) (s : State) : State :=
  match n with
  | .stopped => putSetpoints 0#16 steerNeutral s
  | .driving => putSetpoints s.cfg.motorFwd.val steerNeutral s
  | .avoid =>
    let pw := cellGet .pulseWidth s
    if pw.1.toNat < threshold then
      putSetpoints pw.2.cfg.avoidMotorClose pw.2.cfg.steerDeflect.val pw.2
    else putSetpoints pw.2.cfg.avoidMotorClear steerNeutral pw.2

/-- `ST[CAR] <- n`, then the output of the state just entered (R180, R254). -/
def enterCar (n : CarState) (s : State) : State := emit n (setSt .car n.code s)

/-- The next state from `stopped` (R182). -/
def nextFromStopped (cmd : Byte) : CarState :=
  if cmd = cmdDrive then .driving else if cmd = cmdAvoid then .avoid else .stopped

/-- The next state from `driving` (R183). -/
def nextFromDriving (cmd : Byte) : CarState := if cmd = cmdStop then .stopped else .driving

/-- The next state from obstacle-avoid (R184). -/
def nextFromAvoid (cmd : Byte) : CarState := if cmd = cmdStop then .stopped else .avoid

/-- The form of a step that consults the command: read it once, choose the next state, enter it
(R180, D33). -/
def carStep (choose : Byte → CarState) (s : State) : State :=
  let cmd := cellGet .driveCmd s
  enterCar (choose cmd.1) cmd.2

/-- `CAR.INIT` (R181): unconditional. -/
def carInit (s : State) : State := enterCar .stopped s

/-- `CAR.STOPPED` (R182). -/
def carStopped (s : State) : State := carStep nextFromStopped s

/-- `CAR.DRIVING` (R183). -/
def carDriving (s : State) : State := carStep nextFromDriving s

/-- `CAR.AVOID` (R184). -/
def carAvoid (s : State) : State := carStep nextFromAvoid s

/-- The step `CAR.INIT` by itself (log 8). -/
def execCarInit (s : State) : Host.Outcome State Fault Refusal := .next (carInit s)

/-- The step `CAR.DRIVING` by itself (log 8). -/
def execCarDriving (s : State) : Host.Outcome State Fault Refusal := .next (carDriving s)

/-- The step `CAR.STOPPED` by itself (log 8). -/
def execCarStopped (s : State) : Host.Outcome State Fault Refusal := .next (carStopped s)

/-- The step `CAR.AVOID` by itself (log 8). -/
def execCarAvoid (s : State) : Host.Outcome State Fault Refusal := .next (carAvoid s)

end Sys2Proof.Machine
end

