-- ==== Sys2Proof/Machine/Flags.lean ====
section
/-! DEFINITION. The one-bit status flags (R43): what sets the pending flag, what enables the capture
interrupt, and whether the block is frozen. There are no arithmetic flags. -/

namespace Sys2Proof.Machine

open Sys2Proof

/-- Does the change of the echo input from `old` to `new` make the transition the edge sense `es`
selects (R134)? -/
def edgeSelected (old new es : Bool) : Bool := (!old && new && es) || (old && !new && !es)

/-- `CAPF` after an `EDGE`: set by the selected edge, never cleared (R134). -/
def capfAfterEdge (capf old new es : Bool) : Bool := if edgeSelected old new es then true else capf

/-- `CAPTURE` is enabled: `CAPF` = 1, `CAPIE` = 1 and `IE` = 1 (R135, R214). -/
def captureEnabled (s : State) : Bool := s.capf && s.capie && s.ie

/-- The block is frozen: `FATAL_F` = 1 (R39, R167). -/
def frozen (s : State) : Bool := s.fatalF

end Sys2Proof.Machine
end

