-- ==== Sys2Proof/Machine/EchoTiming.lean ====
section
/-! DEFINITION. The echo-timing operations (41_echo_timing.md): `TICK`, `EDGE`, `CAPTURE` with its
two arms, `ECHO.SETUP`, `ECHO.RUN`. -/

namespace Sys2Proof.Machine

open Sys2Proof

/-- `PHASE_SEED` as a value of the cell `EDGE_PHASE` (R7, R131). -/
def phaseSeed (c : Config) : Byte := if c.phaseSeed then 1#8 else 0#8

/-- `ECHO.SETUP` (R131), in the source's order: the interrupt is enabled last. -/
def echoSetup (s : State) : State :=
  let s := { s with es := true }
  let s := { s with capf := false }
  let s := cellPut .edgePhase (phaseSeed s.cfg) s
  let s := { s with trig := true }
  let s := { s with capie := true }
  let s := { s with armed := true }
  setSt .echo steadyState s

/-- `ECHO.RUN` (R132). -/
def echoRun (s : State) : State := { s with trig := !s.trig }

/-- `CAPTURE.RISE(t)` (R136); the count read on entry is discarded. -/
def captureRise (_t : Word) (s : State) : State :=
  let s := { s with es := false }
  let s := { s with tcnt := 0#16 }
  cellPutIsr .edgePhase 1#8 s

/-- `CAPTURE.FALL(t)` (R137). -/
def captureFall (t : Word) (s : State) : State :=
  let s := { s with es := true }
  let s := cellPutIsr .pulseWidth t s
  cellPutIsr .edgePhase 0#8 s

/-- The capture handler, once it is entered (R135): the arm is chosen by the phase value alone. -/
def captureHandler (s : State) : State :=
  let s := captureEntry s
  let t := s.tcnt
  let ph := cellGetIsr .edgePhase s
  captureReturn (if ph = 0#8 then captureRise t s else captureFall t s)

/-- `TICK n` (R133). -/
def execTick (n : Word) (s : State) : Host.Outcome State Fault Refusal :=
  .next (if s.armed then { s with tcnt := BitVec.ofNat 16 (s.tcnt.toNat + tickCount n) } else s)

/-- `EDGE v` (R134). -/
def execEdge (v : Word) (s : State) : Host.Outcome State Fault Refusal :=
  match edgeLevel v with
  | none => .refused .operandRange
  | some level =>
    .next { s with echoIn := level, capf := capfAfterEdge s.capf s.echoIn level s.es }

/-- `CAPTURE` (R135). -/
def execCapture (s : State) : Host.Outcome State Fault Refusal :=
  if captureEnabled s then .next (captureHandler s) else .refused .notEnabled

/-- The step `ECHO.SETUP` by itself (log 8). -/
def execEchoSetup (s : State) : Host.Outcome State Fault Refusal := .next (echoSetup s)

/-- The step `ECHO.RUN` by itself (log 8). -/
def execEchoRun (s : State) : Host.Outcome State Fault Refusal := .next (echoRun s)

/-- The arm `CAPTURE.RISE` by itself, its operand the timer count (log 8). -/
def execCaptureRise (s : State) : Host.Outcome State Fault Refusal := .next (captureRise s.tcnt s)

/-- The arm `CAPTURE.FALL` by itself, its operand the timer count (log 8). -/
def execCaptureFall (s : State) : Host.Outcome State Fault Refusal := .next (captureFall s.tcnt s)

end Sys2Proof.Machine
end

