-- ==== Sys2Proof/Machine/Dispatcher.lean ====
section
/-! DEFINITION. The cooperative-task dispatcher (42_dispatcher.md): `QUANTUM`, `DISPATCH`, `STEP`,
the decode `body(L)`, and `FATAL`. -/

namespace Sys2Proof.Machine

open Sys2Proof

/-- `body(L)` (R165): the state value is read once; false when it took `FATAL`. -/
def body (l : LoopId) (s : State) : Bool × State :=
  match l, (s.st.get l).toNat with
  | .echo, 0 => (true, echoSetup s)
  | .echo, 1 => (true, echoRun s)
  | .car, 0 => (true, carInit s)
  | .car, 1 => (true, carDriving s)
  | .car, 2 => (true, carStopped s)
  | .car, 3 => (true, carAvoid s)
  | .motor, 0 => (true, motorSetup s)
  | .motor, 1 => (true, motorRun s)
  | .steer, 0 => (true, steerSetup s)
  | .steer, 1 => (true, steerRun s)
  | l, _ => (false, fatal l (s.st.get l) s)

/-- One iteration of loop `l`: its step, and the delay before its next wake-up when the step ran
(R163, R164). -/
def iterate (l : LoopId) (s : State) : State :=
  let r := body l s
  if r.1 then setWake l (r.2.cfg.period.get l).val r.2 else r.2

/-- The loops whose wake counter is 0 (R163). -/
def ready (s : State) : List LoopId := LoopId.all.filter fun l => (s.wake.get l).toNat == 0

/-- The member with the largest priority (R163). -/
def highest : List LoopId → Option LoopId
  | [] => none
  | l :: ls =>
    match highest ls with
    | none => some l
    | some m => if LoopId.prio m > LoopId.prio l then some m else some l

/-- `DISPATCH` as a function of the state: nothing while frozen or idle (R163, R167). -/
def dispatch (s : State) : State :=
  if frozen s then s
  else
    match highest (ready s) with
    | none => s
    | some l => iterate l s

/-- `QUANTUM` as a function of the state: the wake counters first, then the watchdog (R162,
R215 (c)). -/
def quantum (s : State) : State := watchdogTick { s with wake := s.wake.map countDown }

/-- `QUANTUM` (R162). -/
def execQuantum (s : State) : Host.Outcome State Fault Refusal := .next (quantum s)

/-- `DISPATCH` (R163). -/
def execDispatch (s : State) : Host.Outcome State Fault Refusal := .next (dispatch s)

/-- `STEP L` (R164). -/
def execStep (l : BitVec 4) (s : State) : Host.Outcome State Fault Refusal :=
  match LoopId.ofIndex l with
  | none => .refused .badIndex
  | some loop => if frozen s then .refused .notEnabled else .next (iterate loop s)

/-- `FATAL`, for the loop and state value of its loop-state word (R166, log 8). -/
def execFatal (l : LoopId) (state : Byte) (s : State) : Host.Outcome State Fault Refusal :=
  .next (fatal l state s)

end Sys2Proof.Machine
end

