-- ==== Sys2Proof/Machine/Dispatch.lean ====
section
/-! DEFINITION. One arm per instruction, each a direct call of its meaning. -/

namespace Sys2Proof.Machine

open Sys2Proof

def exec (i : Instr) (s : State) : Host.Outcome State Fault Refusal :=
  match i with
  | .reset => Sys2Proof.Machine.execReset s
  | .tick n => Sys2Proof.Machine.execTick n s
  | .edge v => Sys2Proof.Machine.execEdge v s
  | .quantum => Sys2Proof.Machine.execQuantum s
  | .get c => Sys2Proof.Machine.execGet c s
  | .put c v => Sys2Proof.Machine.execPut c v s
  | .getIsr c => Sys2Proof.Machine.execGetIsr c s
  | .putIsr c v => Sys2Proof.Machine.execPutIsr c v s
  | .dispatch => Sys2Proof.Machine.execDispatch s
  | .step l => Sys2Proof.Machine.execStep l s
  | .capture => Sys2Proof.Machine.execCapture s
  | .echoSetup => Sys2Proof.Machine.execEchoSetup s
  | .echoRun => Sys2Proof.Machine.execEchoRun s
  | .carInit => Sys2Proof.Machine.execCarInit s
  | .carDriving => Sys2Proof.Machine.execCarDriving s
  | .carStopped => Sys2Proof.Machine.execCarStopped s
  | .carAvoid => Sys2Proof.Machine.execCarAvoid s
  | .motorSetup => Sys2Proof.Machine.execMotorSetup s
  | .motorRun => Sys2Proof.Machine.execMotorRun s
  | .steerSetup => Sys2Proof.Machine.execSteerSetup s
  | .steerRun => Sys2Proof.Machine.execSteerRun s
  | .fatal l state => Sys2Proof.Machine.execFatal l state s
  | .captureRise => Sys2Proof.Machine.execCaptureRise s
  | .captureFall => Sys2Proof.Machine.execCaptureFall s

end Sys2Proof.Machine
end

