-- ==== Sys2Proof/Machine/Fetch.lean ====
section
/-! DEFINITION. Taking the next operation word of the trace, and placing a word where the next step
takes it (log 2, log 6). -/

namespace Sys2Proof.Machine

open Sys2Proof

/-- The state in which the operation of the trace's first word is applied: the word is taken, and
the result of the operation before it is gone (R10: a result belongs to one operation). -/
def takeWord (rest : List OpWord) (s : State) : State := { s with trace := rest, result := none }

/-- How a decoding error is refused (R91, R213). -/
def refusalOf : DecodeError → Refusal
  | .reservedEncoding => .reservedEncoding
  | .noSuchLoop => .reservedEncoding

/-- Put an operation word in front of the trace. -/
def withOpWord (w : OpWord) (s : State) : State := { s with trace := w :: s.trace }

/-- The operation word of `STEP L` (R83). -/
def stepWord (l : LoopId) : OpWord := OpWord.make 2 1 l.index 0 0

/-- The operation word of `CAPTURE` (R83). -/
def captureWord : OpWord := OpWord.make 3 0 0 0 0

/-- A word that selects no row (R91: `cls` ≥ 4). -/
def reservedWord : OpWord := OpWord.make 15 15 15 15 0xFFFF

/-- Make the next step run the loop-state step of `w`: its loop holds its state value, the block is
not frozen, and the next operation is `STEP` of that loop (R164, R165; log 6). -/
def withLoopState (w : LoopStateWord) (s : State) : State :=
  if LoopStateWord.zero w = 0#4 then
    match LoopId.ofIndex (LoopStateWord.loop w) with
    | some l =>
      withOpWord (stepWord l) { setSt l (LoopStateWord.state w) s with fatalF := false }
    | none => withOpWord reservedWord s
  else withOpWord reservedWord s

/-- Make the next step run the capture arm of `w`: the phase cell holds it, `CAPTURE` is enabled and
is the next operation (R85, R135; log 6). -/
def withPhase (w : PhaseValue) (s : State) : State :=
  withOpWord captureWord
    { writeCell .edgePhase w s with capf := true, capie := true, ie := true }

end Sys2Proof.Machine
end

