-- ==== Sys2Proof/Machine/Step.lean ====
section
/-! DEFINITION. One step of the machine: the trace's next operation word is taken, decoded and
applied (R9, R10), and the placing of a word where the next step takes it. -/

namespace Sys2Proof.Machine

open Sys2Proof

/-- One step. With no operation presented the model stops (log 18); a reserved word is refused
(R91). -/
def step (s : State) : Host.Outcome State Fault Refusal :=
  match s.trace with
  | [] => .fault .traceEnded
  | w :: rest =>
    match decode (.opw w) with
    | .error e => .refused (refusalOf e)
    | .ok i => exec i (takeWord rest s)

/-- `s` with the table word `w` of `nbits` bits placed so that the next step runs it (log 6). -/
def State.withFetchWord (s : State) (nbits w : Nat) : State :=
  match nbits with
  | 32 => withOpWord (BitVec.ofNat 32 w) s
  | 16 => withLoopState (BitVec.ofNat 16 w) s
  | 8 => withPhase (BitVec.ofNat 8 w) s
  | _ => withOpWord reservedWord s

end Sys2Proof.Machine
end

