-- ==== Sys2Proof/Machine/ByteAccess.lean ====
section
/-! DEFINITION. What R62, R118 and R244 describe beside the block: an implementation that moves the
16-bit cell `PULSE_WIDTH` one byte at a time, low byte first, and a capture interrupt that may fall
between the two bytes. No step of the machine splits an access (log 12). -/

namespace Sys2Proof.Machine

open Sys2Proof

/-- Byte 0 of a 16-bit value: bits 7:0 (R62). -/
def lowByte (w : Word) : Byte := w.extractLsb' 0 8

/-- Byte 1 of a 16-bit value: bits 15:8 (R62). -/
def highByte (w : Word) : Byte := w.extractLsb' 8 8

/-- The value with these two bytes (R62). -/
def ofBytes (high low : Byte) : Word := high ++ low

/-- The capture handler runs here if it is enabled here. -/
def interruptHere (s : State) : State := if captureEnabled s then captureHandler s else s

/-- Around a split access: the mask of R116, or none. -/
def maskedBy (masked : Bool) (action : State → State) (s : State) : State :=
  if masked then (withMask (fun t => ((), action t)) s).2 else action s

/-- A read of `PULSE_WIDTH` in two byte accesses with an interrupt point between them. -/
def splitGet (masked : Bool) (s : State) : Word × State :=
  let s1 := if masked then { s with ie := false } else s
  let low := lowByte (readCell .pulseWidth s1)
  let s2 := interruptHere s1
  let high := highByte (readCell .pulseWidth s2)
  (ofBytes high low, if masked then { s2 with ie := s.ie } else s2)

/-- A write of `PULSE_WIDTH` in two byte accesses with an interrupt point between them. -/
def splitPut (masked : Bool) (v : Word) (s : State) : State :=
  maskedBy masked
    (fun t =>
      let t1 := writeCell .pulseWidth (ofBytes (highByte (readCell .pulseWidth t)) (lowByte v)) t
      let t2 := interruptHere t1
      writeCell .pulseWidth (ofBytes (highByte v) (lowByte (readCell .pulseWidth t2))) t2)
    s

end Sys2Proof.Machine
end

