-- ==== Sys2Proof/Machine/Registers.lean ====
section
/-! DEFINITION. The register map of R48: number, width, reset value, value and writers of each
register. The numbers name registers; no operation takes one (R60, log 15). -/

namespace Sys2Proof.Machine

open Sys2Proof

/-- The registers of R48. -/
inductive RegId where
  | tcnt | es | capie | capf | armed | trig | echoIn | ie
  | st (l : LoopId)
  | wake (l : LoopId)
  | fatalF | wdtArmed | wdtCnt | motorOut | steerOut
deriving DecidableEq, Repr

/-- The register's number (R48). -/
def RegId.number : RegId → Nat
  | .tcnt => 0
  | .es => 1
  | .capie => 2
  | .capf => 3
  | .armed => 4
  | .trig => 5
  | .echoIn => 6
  | .ie => 7
  | .st l => 8 + l.index.toNat
  | .wake l => 12 + l.index.toNat
  | .fatalF => 16
  | .wdtArmed => 17
  | .wdtCnt => 18
  | .motorOut => 19
  | .steerOut => 20

/-- The register's width (R48). -/
def RegId.width : RegId → Nat
  | .tcnt => 16
  | .es | .capie | .capf | .armed | .trig | .echoIn | .ie => 1
  | .st _ => 8
  | .wake _ => 16
  | .fatalF | .wdtArmed => 1
  | .wdtCnt | .motorOut | .steerOut => 16

/-- The register's reset value (R48; of `ECHO_IN`, at first power-on). -/
def RegId.resetValue : RegId → Nat
  | .ie => 1
  | _ => 0

/-- The value the register holds, as a number below 2 to its width (R48). -/
def RegId.read (r : RegId) (s : State) : Nat :=
  match r with
  | .tcnt => s.tcnt.toNat
  | .es => s.es.toNat
  | .capie => s.capie.toNat
  | .capf => s.capf.toNat
  | .armed => s.armed.toNat
  | .trig => s.trig.toNat
  | .echoIn => s.echoIn.toNat
  | .ie => s.ie.toNat
  | .st l => (s.st.get l).toNat
  | .wake l => (s.wake.get l).toNat
  | .fatalF => s.fatalF.toNat
  | .wdtArmed => s.wdtArmed.toNat
  | .wdtCnt => s.wdtCnt.toNat
  | .motorOut => s.motorOut.toNat
  | .steerOut => s.steerOut.toNat

/-- The loop whose step an instruction is (R84). -/
def loopOf : Instr → Option LoopId
  | .echoSetup | .echoRun => some .echo
  | .carInit | .carDriving | .carStopped | .carAvoid => some .car
  | .motorSetup | .motorRun => some .motor
  | .steerSetup | .steerRun => some .steer
  | .fatal l _ => some l
  | .reset | .tick _ | .edge _ | .quantum | .get _ | .put _ _ | .getIsr _ | .putIsr _ _
  | .dispatch | .step _ | .capture | .captureRise | .captureFall => none

/-- Does the row of `r` in R48 list the instruction as a writer? The two arms count as `CAPTURE`;
`RESET` writes every register but `ECHO_IN` (the table's last column). -/
def RegId.writtenBy (r : RegId) (i : Instr) : Bool :=
  match r with
  | .tcnt => match i with | .reset | .tick _ | .captureRise => true | _ => false
  | .es =>
    match i with
    | .reset | .echoSetup | .capture | .captureRise | .captureFall => true
    | _ => false
  | .capie => match i with | .reset | .echoSetup => true | _ => false
  | .capf => match i with | .reset | .edge _ | .capture | .echoSetup => true | _ => false
  | .armed => match i with | .reset | .echoSetup => true | _ => false
  | .trig => match i with | .reset | .echoSetup | .echoRun => true | _ => false
  | .echoIn => match i with | .edge _ => true | _ => false
  | .ie => match i with | .reset => true | _ => false
  | .st l => match i with | .reset => true | .fatal _ _ => false | i => loopOf i == some l
  | .wake _ => match i with | .reset | .quantum | .dispatch | .step _ => true | _ => false
  | .fatalF => match i with | .reset | .fatal _ _ => true | _ => false
  | .wdtArmed => match i with | .reset | .fatal _ _ => true | _ => false
  | .wdtCnt => match i with | .reset | .fatal _ _ | .quantum => true | _ => false
  | .motorOut => match i with | .reset | .motorRun => true | _ => false
  | .steerOut => match i with | .reset | .steerRun => true | _ => false

/-- The instructions that one instruction may run inside its own step: the dispatcher runs
loop-state steps (R165), `CAPTURE` its arms (R135), `QUANTUM` the watchdog's reset (R168). -/
def mayRun (i j : Instr) : Bool :=
  match i with
  | .dispatch | .step _ => j.format == .lsw
  | .capture => j.format == .phv
  | .quantum => j == .reset
  | _ => false

/-- The agents of R9. -/
inductive Agent where
  /-- The environment. -/
  | env
  /-- The external collaborator. -/
  | ext
  /-- The capture handler. -/
  | isr
  /-- The dispatcher. -/
  | disp
  /-- The hardware watchdog. -/
  | wdt
deriving DecidableEq, Repr

/-- Who performs an instruction (R9). The watchdog performs no whole one: `actsIn` says where it acts. -/
def agentOf : Instr → Agent
  | .reset | .tick _ | .edge _ | .quantum => .env
  | .get _ | .put _ _ | .getIsr _ | .putIsr _ _ => .ext
  | .capture | .captureRise | .captureFall => .isr
  | .dispatch | .step _ | .echoSetup | .echoRun | .carInit | .carDriving | .carStopped | .carAvoid
  | .motorSetup | .motorRun | .steerSetup | .steerRun | .fatal _ _ => .disp

/-- Does the agent act in this operation, taken in the state `s`? The watchdog acts in the expiry clause
of a `QUANTUM`, every other agent in the instructions it performs (R9, R168). -/
def Agent.actsIn (a : Agent) (i : Instr) (s : State) : Bool :=
  match a with
  | .wdt => i == .quantum && watchdogExpires s
  | .env | .ext | .isr | .disp => agentOf i == a

/-- The contexts of R220; the environment and the watchdog act in none (R9). No state bit records the context. -/
inductive Context where
  | interrupt
  | cooperative
deriving DecidableEq, Repr

/-- The context an agent acts in (R9). -/
def Agent.context : Agent → Option Context
  | .env => none
  | .ext => some .cooperative
  | .isr => some .interrupt
  | .disp => some .cooperative
  | .wdt => none

end Sys2Proof.Machine
end

