-- ==== Sys2Proof/Machine/TraceText.lean ====
section
/-! DEFINITION. The textual form of a trace (R94) and the pseudo-operations (R95). A line is a list
of characters, so that the kernel can read one (log 17). -/

namespace Sys2Proof.Machine

open Sys2Proof

/-- The pseudo-operations of R95. -/
inductive Pseudo where
  | rise
  | fall
  | irqRise
  | irqFall
  | pulse (n : Word)
  | cmd (v : Word)
  | quanta (k : Nat)
  | runAll
deriving DecidableEq, Repr

/-- What a pseudo-operation expands to (R95). -/
def Pseudo.expand : Pseudo → List Instr
  | .rise => [.edge 1]
  | .fall => [.edge 0]
  | .irqRise => [.edge 1, .capture]
  | .irqFall => [.edge 0, .capture]
  | .pulse n => [.edge 1, .capture, .tick n, .edge 0, .capture]
  | .cmd v => [.put CellId.driveCmd.index v]
  | .quanta k => List.replicate k .quantum
  | .runAll => List.replicate 4 .dispatch

/-- A digit's value in base `base`. -/
def digit (base : Nat) (c : Char) : Option Nat :=
  let n := c.toNat
  let d :=
    if 48 ≤ n ∧ n ≤ 57 then n - 48
    else if 97 ≤ n ∧ n ≤ 102 then n - 87
    else if 65 ≤ n ∧ n ≤ 70 then n - 55
    else 16
  if d < base then some d else none

/-- A number in base `base`, added to `acc` digit by digit. -/
def digits (base : Nat) : Nat → List Char → Option Nat
  | acc, [] => some acc
  | acc, c :: cs =>
    match digit base c with
    | some d => digits base (acc * base + d) cs
    | none => none

/-- A non-negative immediate: decimal, or hexadecimal with `0x` (R94). -/
def natural : List Char → Option Nat
  | [] => none
  | '0' :: 'x' :: c :: cs => digits 16 0 (c :: cs)
  | cs => digits 10 0 cs

/-- A 16-bit immediate (R94). -/
def immediate (cs : List Char) : Option Word :=
  match natural cs with
  | some n => if n < 65536 then some (BitVec.ofNat 16 n) else none
  | none => none

/-- The immediate of a `PUT` to cell `c`: for an i16 cell a negative decimal too, written as
`as_u16` (R94). -/
def cellImmediate (c : BitVec 4) (cs : List Char) : Option Word :=
  match cs with
  | '-' :: ds =>
    if c = CellId.motorSp.index ∨ c = CellId.steerSp.index then
      match digits 10 0 ds with
      | some n => if ds ≠ [] ∧ n ≤ 32768 then some (BitVec.ofInt 16 (-(n : Int))) else none
      | none => none
    else none
  | cs => immediate cs

/-- The name of a cell (R90). -/
def CellId.text : CellId → List Char
  | .edgePhase => ['E', 'D', 'G', 'E', '_', 'P', 'H', 'A', 'S', 'E']
  | .pulseWidth => ['P', 'U', 'L', 'S', 'E', '_', 'W', 'I', 'D', 'T', 'H']
  | .driveCmd => ['D', 'R', 'I', 'V', 'E', '_', 'C', 'M', 'D']
  | .motorSp => ['M', 'O', 'T', 'O', 'R', '_', 'S', 'P']
  | .steerSp => ['S', 'T', 'E', 'E', 'R', '_', 'S', 'P']

/-- The name of a loop (R90). -/
def LoopId.text : LoopId → List Char
  | .echo => ['E', 'C', 'H', 'O']
  | .car => ['C', 'A', 'R']
  | .motor => ['M', 'O', 'T', 'O', 'R']
  | .steer => ['S', 'T', 'E', 'E', 'R']

/-- An index field written as a number. -/
def index (cs : List Char) : Option (BitVec 4) :=
  match natural cs with
  | some n => if n < 16 then some (BitVec.ofNat 4 n) else none
  | none => none

/-- A cell operand, by name or number (R94). -/
def cellOperand (cs : List Char) : Option (BitVec 4) :=
  match [CellId.edgePhase, .pulseWidth, .driveCmd, .motorSp, .steerSp].find?
      fun c => CellId.text c == cs with
  | some c => some c.index
  | none => index cs

/-- A loop operand, by name or number (R94). -/
def loopOperand (cs : List Char) : Option (BitVec 4) :=
  match LoopId.all.find? fun l => LoopId.text l == cs with
  | some l => some l.index
  | none => index cs

/-- A line without its comment (R94). -/
def stripComment : List Char → List Char
  | [] => []
  | c :: cs => if c = ';' then [] else c :: stripComment cs

/-- The words of a line, cut at blanks and commas; `word` is the word being read. -/
def words : List Char → List Char → List (List Char)
  | [], word => if word = [] then [] else [word.reverse]
  | c :: cs, word =>
    if c = ' ' ∨ c = ',' ∨ c = '\t' then
      if word = [] then words cs [] else word.reverse :: words cs []
    else words cs (c :: word)

/-- The operations of one line: one, those of a pseudo-operation, or none for an empty line; nothing
when the line is no line of a trace (R94, R95). -/
def parseLine (line : List Char) : Option (List Instr) :=
  match words (stripComment line) [] with
  | [] => some []
  | [['R', 'E', 'S', 'E', 'T']] => some [.reset]
  | [['T', 'I', 'C', 'K'], n] => (immediate n).map fun n => [.tick n]
  | [['E', 'D', 'G', 'E'], v] => (immediate v).map fun v => [.edge v]
  | [['Q', 'U', 'A', 'N', 'T', 'U', 'M']] => some [.quantum]
  | [['G', 'E', 'T'], c] => (cellOperand c).map fun c => [.get c]
  | [['P', 'U', 'T'], c, v] => do
    let c ← cellOperand c
    let v ← cellImmediate c v
    return [.put c v]
  | [['G', 'E', 'T', '_', 'I', 'S', 'R'], c] => (cellOperand c).map fun c => [.getIsr c]
  | [['P', 'U', 'T', '_', 'I', 'S', 'R'], c, v] => do
    let c ← cellOperand c
    let v ← cellImmediate c v
    return [.putIsr c v]
  | [['D', 'I', 'S', 'P', 'A', 'T', 'C', 'H']] => some [.dispatch]
  | [['S', 'T', 'E', 'P'], l] => (loopOperand l).map fun l => [.step l]
  | [['C', 'A', 'P', 'T', 'U', 'R', 'E']] => some [.capture]
  | [['R', 'I', 'S', 'E']] => some Pseudo.rise.expand
  | [['F', 'A', 'L', 'L']] => some Pseudo.fall.expand
  | [['I', 'R', 'Q', '_', 'R', 'I', 'S', 'E']] => some Pseudo.irqRise.expand
  | [['I', 'R', 'Q', '_', 'F', 'A', 'L', 'L']] => some Pseudo.irqFall.expand
  | [['P', 'U', 'L', 'S', 'E'], n] => (immediate n).map fun n => (Pseudo.pulse n).expand
  | [['C', 'M', 'D'], v] => (immediate v).map fun v => (Pseudo.cmd v).expand
  | [['Q', 'U', 'A', 'N', 'T', 'A'], k] => (natural k).map fun k => (Pseudo.quanta k).expand
  | [['R', 'U', 'N', 'A', 'L', 'L']] => some Pseudo.runAll.expand
  | _ => none

/-- The operations of a whole trace, line by line. -/
def parseTrace : List (List Char) → Option (List Instr)
  | [] => some []
  | line :: rest =>
    match parseLine line, parseTrace rest with
    | some is, some js => some (is ++ js)
    | _, _ => none

end Sys2Proof.Machine
end

