-- ==== Sys2Proof/Safety.lean ====
section
/-! DEFINITION. What counts as a safe run: applying a list of operations, the invariants of R47, and
the outcome that R213 gives every word. -/

namespace Sys2Proof.Machine

open Sys2Proof

/-- Apply one operation, with no result left over from the one before (R10). -/
def applyOp (i : Instr) (s : State) : Host.Outcome State Fault Refusal :=
  exec i { s with result := none }

/-- Apply a list of operations in order; the first refusal ends it (R9, R10). -/
def applyAll : List Instr → State → Host.Outcome State Fault Refusal
  | [], s => .next s
  | i :: is, s =>
    match applyOp i s with
    | .next t => applyAll is t
    | .fault r => .fault r
    | .refused r => .refused r

/-- The total of a list of tick counts. -/
def totalTicks : List Word → Nat
  | [] => 0
  | n :: ns => n.toNat + totalTicks ns

/-- The trace words of a list of operations; an instruction that is no operation word has none. -/
def traceWords : List Instr → List OpWord
  | [] => []
  | i :: is =>
    match encode i with
    | .opw w => w :: traceWords is
    | .lsw _ | .phv _ => traceWords is

/-- A word respects the single-writer discipline of R28: it is no `PUT` to a cell other than
`DRIVE_CMD`. -/
def putsOnlyCmd (w : OpWord) : Bool :=
  match decode (.opw w) with
  | .ok (.put c _) => c == CellId.driveCmd.index
  | _ => true

/-- Every loop holds a recognised state (R29, R47). -/
abbrev RecognisedStates (s : State) : Prop :=
  s.st.echo.toNat < 2 ∧ s.st.car.toNat < 4 ∧ s.st.motor.toNat < 2 ∧ s.st.steer.toNat < 2

/-- `EDGE_PHASE` is 0 or 1 (R22, R47). -/
abbrev LegalPhase (s : State) : Prop := s.cells.edgePhase = 0#8 ∨ s.cells.edgePhase = 1#8

/-- The lifecycle of the echo-timing unit (R47): armed exactly after the setup step. -/
abbrev LifecycleCoherent (s : State) : Prop :=
  (s.armed = true → s.capie = true ∧ s.st.echo = 1#8) ∧
  (s.armed = false → s.tcnt = 0#16 ∧ s.capie = false ∧ s.st.echo = 0#8)

/-- `FATAL_F` = `WDT_ARMED`, and while frozen 1 ≤ `WDT_CNT` ≤ `WDT_TIMEOUT` (R47). -/
abbrev WatchdogCoherent (s : State) : Prop :=
  s.fatalF = s.wdtArmed ∧
  (s.fatalF = true → 1 ≤ s.wdtCnt.toNat ∧ s.wdtCnt.toNat ≤ s.cfg.wdtTimeout.val.toNat)

/-- Phase and edge sense are complementary: `ES` = 1 exactly when `EDGE_PHASE` = 0 (R47, R138). -/
abbrev SenseComplementsPhase (s : State) : Prop := s.es = true ↔ s.cells.edgePhase = 0#8

/-- R47's last clause: complementary while armed, but for the seed 1 before the first capture. -/
abbrev SenseCoherent (s : State) : Prop :=
  s.armed = true →
    SenseComplementsPhase s ∨
    (s.cfg.phaseSeed = true ∧ s.es = true ∧ s.cells.edgePhase = 1#8)

/-- The invariants of R47 together. -/
abbrev Invariant47 (s : State) : Prop :=
  LegalPhase s ∧ RecognisedStates s ∧ LifecycleCoherent s ∧ WatchdogCoherent s ∧ s.ie = true ∧
  SenseCoherent s

/-- The setpoints are those of the car-control state (R254: "already consistent with the new
state"); in state 0 they hold the initialisation values, in unrecognised states anything. -/
def SetpointsMatchState (s : State) : Prop :=
  match s.st.car.toNat with
  | 0 => s.cells.motorSp = 0#16 ∧ s.cells.steerSp = 0#16
  | 1 => s.cells.motorSp = s.cfg.motorFwd.val ∧ s.cells.steerSp = 0#16
  | 2 => s.cells.motorSp = 0#16 ∧ s.cells.steerSp = 0#16
  | 3 =>
    (s.cells.motorSp = s.cfg.avoidMotorClose ∧ s.cells.steerSp = s.cfg.steerDeflect.val) ∨
    (s.cells.motorSp = s.cfg.avoidMotorClear ∧ s.cells.steerSp = 0#16)
  | _ => True

/-- What one iteration of the CAR loop leaves, for the next state `n` and two setpoints (R187): the
state register, both setpoint cells and the loop's wake counter are written, nothing else. -/
def carResult (s : State) (n : Byte) (motor steer : Word) : State :=
  { s with
    st := { s.st with car := n }
    cells := { s.cells with motorSp := motor, steerSp := steer }
    wake := { s.wake with car := s.cfg.period.car.val } }

/-- What `FATAL` leaves (R166): one more record, the watchdog armed, the latch set. -/
def fatalResult (s : State) (l : LoopId) (v : Byte) : State :=
  { s with
    diag := s.diag ++ [.illegalState l v], wdtArmed := true, wdtCnt := s.cfg.wdtTimeout.val,
    fatalF := true }

/-- The rows of the opcode map (R83): match and mask of the eleven operations. -/
def opwRows : List (OpWord × OpWord) :=
  [(0x00000000, 0xFFFFFFFF), (0x01000000, 0xFFFF0000), (0x02000000, 0xFFFF0000),
   (0x03000000, 0xFFFFFFFF), (0x10000000, 0xFF0FFFFF), (0x11000000, 0xFF0F0000),
   (0x12000000, 0xFF0FFFFF), (0x13000000, 0xFF0F0000), (0x20000000, 0xFFFFFFFF),
   (0x21000000, 0xFF0FFFFF), (0x30000000, 0xFFFFFFFF)]

/-- A word selects a row when `W & mask == match` (R83). -/
def selects (w : OpWord) (row : OpWord × OpWord) : Bool := w &&& row.2 == row.1

/-- The operand fields of a word, by the position of its row in `opwRows` (R83). -/
def rowInstr (row : Nat) (w : OpWord) : Option Instr :=
  match row with
  | 0 => some .reset
  | 1 => some (.tick (w.extractLsb' 0 16))
  | 2 => some (.edge (w.extractLsb' 0 16))
  | 3 => some .quantum
  | 4 => some (.get (w.extractLsb' 20 4))
  | 5 => some (.put (w.extractLsb' 20 4) (w.extractLsb' 0 16))
  | 6 => some (.getIsr (w.extractLsb' 20 4))
  | 7 => some (.putIsr (w.extractLsb' 20 4) (w.extractLsb' 0 16))
  | 8 => some .dispatch
  | 9 => some (.step (w.extractLsb' 20 4))
  | 10 => some .capture
  | _ => none

/-- `BadIndex` applies: a cell index of 5 or more, a loop id of 4 or more (R213). -/
def badIndexApplies : Instr → Bool
  | .get c | .put c _ | .getIsr c | .putIsr c _ => 5 ≤ c.toNat
  | .step l => 4 ≤ l.toNat
  | _ => false

/-- `ContractViolation` applies: a top-level interrupt-path access (R213). -/
def contractViolationApplies : Instr → Bool
  | .getIsr _ | .putIsr _ _ => true
  | _ => false

/-- `OperandRange` applies: `PUT` of a value above 255 to cell 0 or 2, `EDGE` above 1 (R213). -/
def operandRangeApplies : Instr → Bool
  | .put c v => (c.toNat == 0 || c.toNat == 2) && 256 ≤ v.toNat
  | .edge v => 2 ≤ v.toNat
  | _ => false

/-- `NotEnabled` applies: `CAPTURE` without its three bits, `STEP` while frozen (R213). -/
def notEnabledApplies (i : Instr) (s : State) : Bool :=
  match i with
  | .capture => !(s.capf && s.capie && s.ie)
  | .step _ => s.fatalF
  | _ => false

/-- The reason reported for a decoded operation: the first in the order of R213 that applies. -/
def firstRefusal (i : Instr) (s : State) : Option Refusal :=
  if badIndexApplies i then some .badIndex
  else if contractViolationApplies i then some .contractViolation
  else if operandRangeApplies i then some .operandRange
  else if notEnabledApplies i s then some .notEnabled
  else none

end Sys2Proof.Machine
end

