-- ==== Sys2Proof/Certificates/Slice0/Obligations.lean ====
section
/-! DEFINITION. The statements for the provers, one per definition; OBLIGATIONS.json lists them. -/

open Sys2Proof Sys2Proof.Machine

/-! ### Reset -/

/-- R240, R241: `RESET` leaves the power-on state of the same parameters, but for the two elements
it does not write; the model's own inputs are kept (log 16). -/
def Obligations.ResetWritesResetTable : Prop :=
  decode (.opw 0x00000000#32) = .ok .reset ∧
  (∀ (idx rsv : BitVec 4) (imm : Word), idx ≠ 0#4 ∨ rsv ≠ 0#4 ∨ imm ≠ 0#16 →
    decode (.opw (OpWord.make 0 0 idx rsv imm)) = .error .reservedEncoding) ∧
  ∀ s : State, exec .reset s =
    .next { State.powerOn s.cfg with
      echoIn := s.echoIn, diag := s.diag, extWritesOnlyCmd := s.extWritesOnlyCmd
      trace := s.trace, result := s.result }

/-- R45: every element after `RESET` has the value of the table; `ECHO_IN` and `DIAG` are kept, and
are 0 and empty at first power-on. -/
def Obligations.ResetValuesOfEveryElement : Prop :=
  (∀ s : State, ∃ t, exec .reset s = .next t ∧
    (∀ l, t.st.get l = 0#8) ∧ (∀ l, t.wake.get l = 0#16) ∧
    t.cells.motorSp = 0#16 ∧ t.cells.steerSp = 0#16 ∧ t.cells.driveCmd = 0#8 ∧
    t.cells.edgePhase = 0#8 ∧ t.cells.pulseWidth = s.cfg.pwInit ∧ t.tcnt = 0#16 ∧
    t.es = false ∧ t.capie = false ∧ t.capf = false ∧ t.armed = false ∧ t.trig = false ∧
    t.ie = true ∧ t.fatalF = false ∧ t.wdtArmed = false ∧ t.wdtCnt = 0#16 ∧
    t.motorOut = 0#16 ∧ t.steerOut = 0#16 ∧ t.echoIn = s.echoIn ∧ t.diag = s.diag) ∧
  ∀ c : Config, (State.powerOn c).echoIn = false ∧ (State.powerOn c).diag = []

/-- A corner case of R163 and R240: after reset the first four `DISPATCH`es run MOTOR, STEER, CAR
and ECHO in this order, and a fifth is idle. The order within each pair is the spec's decision D11
(log 13). -/
def Obligations.BootRunsSetupStepsByPriority : Prop :=
  ∀ s : State, ∃ t,
    applyAll [.reset, .dispatch, .dispatch, .dispatch, .dispatch] s = .next t ∧
    applyAll [.reset, .step 2, .step 3, .step 1, .step 0] s = .next t ∧
    applyAll [.reset, .dispatch] s = applyAll [.reset, .step 2] s ∧
    applyAll [.reset, .dispatch, .dispatch] s = applyAll [.reset, .step 2, .step 3] s ∧
    applyAll [.reset, .dispatch, .dispatch, .dispatch] s =
      applyAll [.reset, .step 2, .step 3, .step 1] s ∧
    exec .dispatch t = .next t

/-- The four setup steps reach the same state in every order. R243 (c) says so "apart from `WAKE`"
and marks it as the spec's inference; with no quantum among the steps `WAKE` agrees too. -/
def Obligations.SetupOrderIrrelevant : Prop :=
  ∀ (s : State) (is : List Instr),
    s.st = { echo := 0#8, car := 0#8, motor := 0#8, steer := 0#8 } → s.fatalF = false →
    is.Perm [.step 0, .step 1, .step 2, .step 3] →
    ∃ t, applyAll is s = .next t ∧
      applyAll [.step 0, .step 1, .step 2, .step 3] s = .next t

/-! ### The environment's operations -/

/-- R133: `TICK n` adds n modulo 65536 while armed and does nothing else. -/
def Obligations.TickAdvancesTimer : Prop :=
  (∀ n : Word, decode (.opw (OpWord.make 0 1 0 0 n)) = .ok (.tick n)) ∧
  (∀ (idx rsv : BitVec 4) (n : Word), idx ≠ 0#4 ∨ rsv ≠ 0#4 →
    decode (.opw (OpWord.make 0 1 idx rsv n)) = .error .reservedEncoding) ∧
  (∀ (n : Word) (s : State), s.armed = true →
    exec (.tick n) s =
      .next { s with tcnt := BitVec.ofNat 16 ((s.tcnt.toNat + n.toNat) % 65536) }) ∧
  ∀ (n : Word) (s : State), s.armed = false → exec (.tick n) s = .next s

/-- R133's composition, which the spec marks as its own inference ("`TICK n` followed by `TICK m`
equals `TICK (n+m)`"), over any number of ticks: the counts accumulate modulo 65536. -/
def Obligations.TicksAccumulate : Prop :=
  ∀ (ns : List Word) (s : State), s.armed = true →
    ∃ t, applyAll (ns.map .tick) s = .next t ∧
      t = { s with
        tcnt := BitVec.ofNat 16 ((s.tcnt.toNat + totalTicks ns) % 65536), result := t.result }

/-- R134: `EDGE v` records the level and sets `CAPF` on the transition `ES` selects; it never clears
`CAPF`; an immediate above 1 is refused. -/
def Obligations.EdgeDrivesCaptureFlag : Prop :=
  (∀ v : Word, decode (.opw (OpWord.make 0 2 0 0 v)) = .ok (.edge v)) ∧
  (∀ (idx rsv : BitVec 4) (v : Word), idx ≠ 0#4 ∨ rsv ≠ 0#4 →
    decode (.opw (OpWord.make 0 2 idx rsv v)) = .error .reservedEncoding) ∧
  (∀ (v : Word) (s : State), 2 ≤ v.toNat → exec (.edge v) s = .refused .operandRange) ∧
  (∀ s : State, exec (.edge 1) s =
    .next { s with echoIn := true, capf := s.capf || (!s.echoIn && s.es) }) ∧
  ∀ s : State, exec (.edge 0) s =
    .next { s with echoIn := false, capf := s.capf || (s.echoIn && !s.es) }

/-- R162: `QUANTUM` takes one from every wake counter that is not 0, and from the watchdog while it
is armed; when the watchdog reaches 0 the block restarts in the same step. -/
def Obligations.QuantumCountsDown : Prop :=
  decode (.opw 0x03000000#32) = .ok .quantum ∧
  (∀ (idx rsv : BitVec 4) (imm : Word), idx ≠ 0#4 ∨ rsv ≠ 0#4 ∨ imm ≠ 0#16 →
    decode (.opw (OpWord.make 0 3 idx rsv imm)) = .error .reservedEncoding) ∧
  (∀ s : State, s.wdtArmed = false ∨ 2 ≤ s.wdtCnt.toNat →
    exec .quantum s =
      .next { s with
        wake :=
          { echo := BitVec.ofNat 16 (s.wake.echo.toNat - 1)
            car := BitVec.ofNat 16 (s.wake.car.toNat - 1)
            motor := BitVec.ofNat 16 (s.wake.motor.toNat - 1)
            steer := BitVec.ofNat 16 (s.wake.steer.toNat - 1) }
        wdtCnt := if s.wdtArmed then BitVec.ofNat 16 (s.wdtCnt.toNat - 1) else s.wdtCnt }) ∧
  ∀ s : State, s.wdtArmed = true → s.wdtCnt.toNat ≤ 1 → exec .quantum s = exec .reset s

/-! ### Cell access -/

/-- R111: `GET c` returns the cell's value, extended to 16 bits by its type, and changes nothing
else. -/
def Obligations.GetReturnsCell : Prop :=
  (∀ c : BitVec 4, decode (.opw (OpWord.make 1 0 c 0 0)) = .ok (.get c)) ∧
  (∀ (c rsv : BitVec 4) (imm : Word), rsv ≠ 0#4 ∨ imm ≠ 0#16 →
    decode (.opw (OpWord.make 1 0 c rsv imm)) = .error .reservedEncoding) ∧
  (∀ s : State,
    exec (.get 0) s = .next { s with result := some (s.cells.edgePhase.setWidth 16) } ∧
    exec (.get 1) s = .next { s with result := some s.cells.pulseWidth } ∧
    exec (.get 2) s = .next { s with result := some (s.cells.driveCmd.setWidth 16) } ∧
    exec (.get 3) s = .next { s with result := some s.cells.motorSp } ∧
    exec (.get 4) s = .next { s with result := some s.cells.steerSp }) ∧
  ∀ (c : BitVec 4) (s : State), 5 ≤ c.toNat → exec (.get c) s = .refused .badIndex

/-- R112: `PUT c, v` replaces the cell's value and changes nothing else (the interrupt enable is as
before, R116). The flag of U4 is clear, or the cell is `DRIVE_CMD` (the model's choice, log 4). -/
def Obligations.PutReplacesCell : Prop :=
  (∀ (c : BitVec 4) (v : Word), decode (.opw (OpWord.make 1 1 c 0 v)) = .ok (.put c v)) ∧
  (∀ (c rsv : BitVec 4) (v : Word), rsv ≠ 0#4 →
    decode (.opw (OpWord.make 1 1 c rsv v)) = .error .reservedEncoding) ∧
  (∀ (v : Word) (s : State), v.toNat < 256 → s.extWritesOnlyCmd = false →
    exec (.put 0 v) s = .next { s with cells := { s.cells with edgePhase := v.setWidth 8 } }) ∧
  (∀ (v : Word) (s : State), s.extWritesOnlyCmd = false →
    exec (.put 1 v) s = .next { s with cells := { s.cells with pulseWidth := v } } ∧
    exec (.put 3 v) s = .next { s with cells := { s.cells with motorSp := v } } ∧
    exec (.put 4 v) s = .next { s with cells := { s.cells with steerSp := v } }) ∧
  (∀ (v : Word) (s : State), v.toNat < 256 →
    exec (.put 2 v) s = .next { s with cells := { s.cells with driveCmd := v.setWidth 8 } }) ∧
  (∀ (v : Word) (s : State), 256 ≤ v.toNat →
    exec (.put 0 v) s = .refused .operandRange ∧ exec (.put 2 v) s = .refused .operandRange) ∧
  ∀ (c : BitVec 4) (v : Word) (s : State), 5 ≤ c.toNat → exec (.put c v) s = .refused .badIndex

/-- U4, the model's choice of log 4: with `EXT_WRITES_ONLY_CMD` set, a `PUT` that would be performed
on a cell other than `DRIVE_CMD` is refused by name. -/
def Obligations.OwnershipFlagRefusesForeignPut : Prop :=
  (∀ (v : Word) (s : State), s.extWritesOnlyCmd = true → v.toNat < 256 →
    exec (.put 0 v) s = .refused .notDesignatedWriter) ∧
  ∀ (v : Word) (s : State), s.extWritesOnlyCmd = true →
    exec (.put 1 v) s = .refused .notDesignatedWriter ∧
    exec (.put 3 v) s = .refused .notDesignatedWriter ∧
    exec (.put 4 v) s = .refused .notDesignatedWriter

/-- R113, R114: the interrupt-path accesses stop at top level, the index examined first and the
operand range not at all; the primitives themselves move the cell's value and touch nothing else,
`IE` included. -/
def Obligations.InterruptPathRefusedAtTopLevel : Prop :=
  (∀ c : BitVec 4, decode (.opw (OpWord.make 1 2 c 0 0)) = .ok (.getIsr c)) ∧
  (∀ (c : BitVec 4) (v : Word), decode (.opw (OpWord.make 1 3 c 0 v)) = .ok (.putIsr c v)) ∧
  (∀ s : State,
    cellGetIsr .edgePhase s = s.cells.edgePhase ∧ cellGetIsr .pulseWidth s = s.cells.pulseWidth ∧
    cellGetIsr .driveCmd s = s.cells.driveCmd ∧ cellGetIsr .motorSp s = s.cells.motorSp ∧
    cellGetIsr .steerSp s = s.cells.steerSp) ∧
  (∀ (b : Byte) (w : Word) (s : State),
    cellPutIsr .edgePhase b s = { s with cells := { s.cells with edgePhase := b } } ∧
    cellPutIsr .pulseWidth w s = { s with cells := { s.cells with pulseWidth := w } } ∧
    cellPutIsr .driveCmd b s = { s with cells := { s.cells with driveCmd := b } } ∧
    cellPutIsr .motorSp w s = { s with cells := { s.cells with motorSp := w } } ∧
    cellPutIsr .steerSp w s = { s with cells := { s.cells with steerSp := w } }) ∧
  (∀ (c : BitVec 4) (s : State), c.toNat < 5 →
    exec (.getIsr c) s = .refused .contractViolation) ∧
  (∀ (c : BitVec 4) (v : Word) (s : State), c.toNat < 5 →
    exec (.putIsr c v) s = .refused .contractViolation) ∧
  ∀ (c : BitVec 4) (v : Word) (s : State), 5 ≤ c.toNat →
    exec (.getIsr c) s = .refused .badIndex ∧ exec (.putIsr c v) s = .refused .badIndex

/-- R110's last sentence: no accessor touches a register; `GET` touches no cell either, and `PUT` no
cell but the one it names. -/
def Obligations.AccessorsTouchNoRegister : Prop :=
  (∀ (c : BitVec 4) (s t : State), exec (.get c) s = .next t →
    (∀ r : RegId, r.read t = r.read s) ∧ t.cells = s.cells ∧ t.diag = s.diag) ∧
  ∀ (c : BitVec 4) (v : Word) (s t : State), exec (.put c v) s = .next t →
    (∀ r : RegId, r.read t = r.read s) ∧ t.diag = s.diag ∧
    ∀ d : CellId, d.index ≠ c → readCell d t = readCell d s

/-! ### The capture handler -/

/-- R135, R85: `CAPTURE` is enabled exactly while `CAPF` = `CAPIE` = `IE` = 1; it clears `CAPF`, and
the phase value alone chooses the arm (0 the rise arm, every other value the fall arm). -/
def Obligations.CaptureRunsArmOfPhase : Prop :=
  decode (.opw 0x30000000#32) = .ok .capture ∧
  (∀ (idx rsv : BitVec 4) (imm : Word), idx ≠ 0#4 ∨ rsv ≠ 0#4 ∨ imm ≠ 0#16 →
    decode (.opw (OpWord.make 3 0 idx rsv imm)) = .error .reservedEncoding) ∧
  (∀ s : State, s.capf = false ∨ s.capie = false ∨ s.ie = false →
    exec .capture s = .refused .notEnabled) ∧
  (∀ s : State, s.capf = true → s.capie = true → s.ie = true → s.cells.edgePhase = 0#8 →
    exec .capture s =
      .next { s with
        capf := false, es := false, tcnt := 0#16, cells := { s.cells with edgePhase := 1#8 } }) ∧
  ∀ s : State, s.capf = true → s.capie = true → s.ie = true → s.cells.edgePhase ≠ 0#8 →
    exec .capture s =
      .next { s with
        capf := false, es := true
        cells := { s.cells with pulseWidth := s.tcnt, edgePhase := 0#8 } }

/-- R136: the rise arm. -/
def Obligations.CaptureRiseStartsPulse : Prop :=
  decode (.phv 0x00#8) = .ok .captureRise ∧
  ∀ s : State, exec .captureRise s =
    .next { s with es := false, tcnt := 0#16, cells := { s.cells with edgePhase := 1#8 } }

/-- R137: the fall arm, which every phase value but 0 selects (R85). -/
def Obligations.CaptureFallRecordsWidth : Prop :=
  (∀ w : PhaseValue, w ≠ 0#8 → decode (.phv w) = .ok .captureFall) ∧
  ∀ s : State, exec .captureFall s =
    .next { s with es := true, cells := { s.cells with pulseWidth := s.tcnt, edgePhase := 0#8 } }

/-- The latency formula "(w − a + b) mod 65536", which R143 marks as the spec's inference, with
R138's round trip: a pulse whose two edges are served with the latencies `a` and `b` (in ticks) is
recorded as its true width less `a` plus `b`, modulo 65536; the phase and the edge sense are back.
-/
def Obligations.PulseMeasuredWithLatency : Prop :=
  ∀ (s : State) (a m b : List Word),
    s.armed = true → s.capie = true → s.ie = true → s.es = true →
    s.cells.edgePhase = 0#8 → s.echoIn = false →
    ∃ t, applyAll
        ([.edge 1] ++ a.map .tick ++ [.capture] ++ m.map .tick ++ [.edge 0] ++ b.map .tick ++
          [.capture]) s = .next t ∧
      (t.cells.pulseWidth.toNat : Int) =
        ((totalTicks (a ++ m) : Int) - totalTicks a + totalTicks b) % 65536 ∧
      t = { s with
        cells := { s.cells with pulseWidth := t.cells.pulseWidth }
        tcnt := t.cells.pulseWidth, capf := false, result := none }

/-- What the seed does (R139, all of it marked as the spec's inference). With seed 0 the first pulse
is measured; with seed 1 the first value recorded is the time since setup, the first pulse's falling
edge raises nothing, and the second pulse is measured. -/
def Obligations.SeedDecidesFirstMeasurement : Prop :=
  (∀ (s : State) (a m : List Word),
    s.st.echo = 0#8 → s.fatalF = false → s.ie = true → s.echoIn = false →
    s.cfg.phaseSeed = false →
    ∃ t, applyAll
        ([.step 0] ++ a.map .tick ++ [.edge 1, .capture] ++ m.map .tick ++ [.edge 0, .capture]) s =
          .next t ∧
      t.cells.pulseWidth.toNat = totalTicks m % 65536 ∧ t.cells.edgePhase = 0#8) ∧
  ∀ (s : State) (a m g w : List Word),
    s.st.echo = 0#8 → s.fatalF = false → s.ie = true → s.echoIn = false → s.tcnt = 0#16 →
    s.cfg.phaseSeed = true →
    ∃ t u, applyAll
        ([.step 0] ++ a.map .tick ++ [.edge 1, .capture] ++ m.map .tick ++ [.edge 0]) s = .next t ∧
      t.cells.pulseWidth.toNat = totalTicks a % 65536 ∧ t.cells.edgePhase = 0#8 ∧
      t.es = true ∧ t.capf = false ∧
      applyAll (g.map .tick ++ [.edge 1, .capture] ++ w.map .tick ++ [.edge 0, .capture]) t =
        .next u ∧
      u.cells.pulseWidth.toNat = totalTicks w % 65536 ∧ u.cells.edgePhase = 0#8

/-- R246 (a), in part: while an interrupt is pending, further edges leave one pending interrupt and
change nothing but the level. -/
def Obligations.EdgesWhilePendingAreOneInterrupt : Prop :=
  ∀ (s : State) (levels : List Bool), s.capf = true →
    ∃ t, applyAll (levels.map fun v => .edge (if v then 1 else 0)) s = .next t ∧
      t = { s with echoIn := levels.getLast?.getD s.echoIn, result := t.result }

/-! ### The echo loop -/

/-- R131: `ECHO.SETUP`. -/
def Obligations.EchoSetupArmsUnit : Prop :=
  decode (.lsw 0x0000#16) = .ok .echoSetup ∧
  ∀ s : State, exec .echoSetup s =
    .next { s with
      es := true, capf := false, trig := true, capie := true, armed := true
      cells := { s.cells with edgePhase := if s.cfg.phaseSeed then 1#8 else 0#8 }
      st := { s.st with echo := 1#8 } }

/-- R132: `ECHO.RUN` inverts the trigger, so that two runs restore it. -/
def Obligations.EchoRunTogglesTrigger : Prop :=
  decode (.lsw 0x0001#16) = .ok .echoRun ∧
  (∀ s : State, exec .echoRun s = .next { s with trig := !s.trig }) ∧
  ∀ s t : State, exec .echoRun s = .next t → exec .echoRun t = .next s

/-! ### The arbiter -/

/-- R181: `CAR.INIT`. -/
def Obligations.CarInitStops : Prop :=
  decode (.lsw 0x0100#16) = .ok .carInit ∧
  ∀ s : State, exec .carInit s =
    .next { s with
      st := { s.st with car := 2#8 }
      cells := { s.cells with motorSp := 0#16, steerSp := 0#16 } }

/-- R182: `CAR.STOPPED`, for every command and, on the way to obstacle-avoid, every pulse width. -/
def Obligations.CarStoppedObeysCommand : Prop :=
  decode (.lsw 0x0102#16) = .ok .carStopped ∧
  (∀ s : State, s.cells.driveCmd = 1#8 →
    exec .carStopped s =
      .next { s with
        st := { s.st with car := 1#8 }
        cells := { s.cells with motorSp := s.cfg.motorFwd.val, steerSp := 0#16 } }) ∧
  (∀ s : State, s.cells.driveCmd = 2#8 →
    exec .carStopped s =
      .next { s with
        st := { s.st with car := 3#8 }
        cells := { s.cells with
          motorSp :=
            if s.cells.pulseWidth.toNat < 150 then s.cfg.avoidMotorClose
            else s.cfg.avoidMotorClear
          steerSp :=
            if s.cells.pulseWidth.toNat < 150 then s.cfg.steerDeflect.val else 0#16 } }) ∧
  ∀ s : State, s.cells.driveCmd ≠ 1#8 → s.cells.driveCmd ≠ 2#8 →
    exec .carStopped s =
      .next { s with
        st := { s.st with car := 2#8 }
        cells := { s.cells with motorSp := 0#16, steerSp := 0#16 } }

/-- R183: `CAR.DRIVING`: command 0 stops in the same iteration, every other command drives on. -/
def Obligations.CarDrivingStopsOnZero : Prop :=
  decode (.lsw 0x0101#16) = .ok .carDriving ∧
  (∀ s : State, s.cells.driveCmd = 0#8 →
    exec .carDriving s =
      .next { s with
        st := { s.st with car := 2#8 }
        cells := { s.cells with motorSp := 0#16, steerSp := 0#16 } }) ∧
  ∀ s : State, s.cells.driveCmd ≠ 0#8 →
    exec .carDriving s =
      .next { s with
        st := { s.st with car := 1#8 }
        cells := { s.cells with motorSp := s.cfg.motorFwd.val, steerSp := 0#16 } }

/-- R184, R186: `CAR.AVOID`: command 0 stops, every other command compares the width with 150. -/
def Obligations.CarAvoidComparesWidth : Prop :=
  decode (.lsw 0x0103#16) = .ok .carAvoid ∧
  (∀ s : State, s.cells.driveCmd = 0#8 →
    exec .carAvoid s =
      .next { s with
        st := { s.st with car := 2#8 }
        cells := { s.cells with motorSp := 0#16, steerSp := 0#16 } }) ∧
  (∀ s : State, s.cells.driveCmd ≠ 0#8 → s.cells.pulseWidth.toNat ≤ 149 →
    exec .carAvoid s =
      .next { s with
        st := { s.st with car := 3#8 }
        cells := { s.cells with
          motorSp := s.cfg.avoidMotorClose, steerSp := s.cfg.steerDeflect.val } }) ∧
  ∀ s : State, s.cells.driveCmd ≠ 0#8 → 150 ≤ s.cells.pulseWidth.toNat →
    exec .carAvoid s =
      .next { s with
        st := { s.st with car := 3#8 }
        cells := { s.cells with motorSp := s.cfg.avoidMotorClear, steerSp := 0#16 } }

/-- The complete transition table of R187, which the spec marks as its inference, as one iteration
of the loop that is not frozen runs it: every state and every command, the unrecognised states too.
-/
def Obligations.CarTransitionTable : Prop :=
  ∀ s : State, s.fatalF = false →
    (s.st.car = 0#8 → exec (.step 1) s = .next (carResult s 2 0 0)) ∧
    (s.st.car = 2#8 → s.cells.driveCmd = 1#8 →
      exec (.step 1) s = .next (carResult s 1 s.cfg.motorFwd.val 0)) ∧
    (s.st.car = 2#8 → s.cells.driveCmd = 2#8 → s.cells.pulseWidth.toNat < 150 →
      exec (.step 1) s = .next (carResult s 3 s.cfg.avoidMotorClose s.cfg.steerDeflect.val)) ∧
    (s.st.car = 2#8 → s.cells.driveCmd = 2#8 → 150 ≤ s.cells.pulseWidth.toNat →
      exec (.step 1) s = .next (carResult s 3 s.cfg.avoidMotorClear 0)) ∧
    (s.st.car = 2#8 → s.cells.driveCmd = 0#8 ∨ 3 ≤ s.cells.driveCmd.toNat →
      exec (.step 1) s = .next (carResult s 2 0 0)) ∧
    (s.st.car = 1#8 → s.cells.driveCmd = 0#8 →
      exec (.step 1) s = .next (carResult s 2 0 0)) ∧
    (s.st.car = 1#8 → 1 ≤ s.cells.driveCmd.toNat →
      exec (.step 1) s = .next (carResult s 1 s.cfg.motorFwd.val 0)) ∧
    (s.st.car = 3#8 → s.cells.driveCmd = 0#8 →
      exec (.step 1) s = .next (carResult s 2 0 0)) ∧
    (s.st.car = 3#8 → 1 ≤ s.cells.driveCmd.toNat → s.cells.pulseWidth.toNat < 150 →
      exec (.step 1) s = .next (carResult s 3 s.cfg.avoidMotorClose s.cfg.steerDeflect.val)) ∧
    (s.st.car = 3#8 → 1 ≤ s.cells.driveCmd.toNat → 150 ≤ s.cells.pulseWidth.toNat →
      exec (.step 1) s = .next (carResult s 3 s.cfg.avoidMotorClear 0)) ∧
    (4 ≤ s.st.car.toNat → exec (.step 1) s = .next (fatalResult s .car s.st.car))

/-- R180, R186, R187 as information flow: what a CAR step does to the state register and the
setpoints depends on the drive command, the pulse width and the parameters alone. -/
def Obligations.CarStepsDependOnCommandAndWidth : Prop :=
  ∀ (i : Instr) (s s' : State), i ∈ [Instr.carInit, .carDriving, .carStopped, .carAvoid] →
    s.cells.driveCmd = s'.cells.driveCmd → s.cells.pulseWidth = s'.cells.pulseWidth →
    s.cfg = s'.cfg →
    ∃ t t', exec i s = .next t ∧ exec i s' = .next t' ∧ t.st.car = t'.st.car ∧
      t.cells.motorSp = t'.cells.motorSp ∧ t.cells.steerSp = t'.cells.steerSp

/-- "Already consistent with the new state" (R254): the setpoints agree with the car-control state
at reset. The predicate is the model's reading of that sentence. -/
def Obligations.SetpointsMatchAtReset : Prop := SetpointsMatchState State.reset

/-- "In this spec no state has that window" (R254): every step keeps the setpoints in agreement with
the car-control state, while the external collaborator writes only `DRIVE_CMD`: the flag of U4 is
set (as a field it is the model's choice, log 4), or the word taken respects R28, whatever the flag.
-/
def Obligations.SetpointsMatchKept : Prop :=
  ∀ s t : State, s.extWritesOnlyCmd = true ∨ (∀ w ∈ s.trace.take 1, putsOnlyCmd w = true) →
    SetpointsMatchState s → step s = .next t → SetpointsMatchState t

/-! ### The actuation loops -/

/-- R200, R201: the motor loop's two steps. -/
def Obligations.MotorLoopReadsSetpoint : Prop :=
  decode (.lsw 0x0200#16) = .ok .motorSetup ∧ decode (.lsw 0x0201#16) = .ok .motorRun ∧
  (∀ s : State, exec .motorSetup s = .next { s with st := { s.st with motor := 1#8 } }) ∧
  ∀ s : State, exec .motorRun s = .next { s with motorOut := s.cells.motorSp }

/-- R202, R203: the steering loop's two steps. -/
def Obligations.SteerLoopReadsSetpoint : Prop :=
  decode (.lsw 0x0300#16) = .ok .steerSetup ∧ decode (.lsw 0x0301#16) = .ok .steerRun ∧
  (∀ s : State, exec .steerSetup s = .next { s with st := { s.st with steer := 1#8 } }) ∧
  ∀ s : State, exec .steerRun s = .next { s with steerOut := s.cells.steerSp }

/-! ### The dispatcher -/

/-- R164, R165: `STEP L` runs the loop-state step that (L, `ST[L]`) decodes to and reloads
`WAKE[L]`; an unrecognised state takes `FATAL`, without the reload. -/
def Obligations.StepRunsDecodedLoopState : Prop :=
  (∀ l : BitVec 4, decode (.opw (OpWord.make 2 1 l 0 0)) = .ok (.step l)) ∧
  (∀ (l rsv : BitVec 4) (imm : Word), rsv ≠ 0#4 ∨ imm ≠ 0#16 →
    decode (.opw (OpWord.make 2 1 l rsv imm)) = .error .reservedEncoding) ∧
  (∀ (l : BitVec 4) (s : State), 4 ≤ l.toNat → exec (.step l) s = .refused .badIndex) ∧
  (∀ (l : BitVec 4) (s : State), l.toNat < 4 → s.fatalF = true →
    exec (.step l) s = .refused .notEnabled) ∧
  (∀ (l : LoopId) (s : State), s.fatalF = false → l.recognises (s.st.get l) = true →
    ∃ i t, decode (.lsw (LoopStateWord.form l (s.st.get l))) = .ok i ∧ exec i s = .next t ∧
      exec (.step l.index) s =
        .next { t with wake := t.wake.set l (s.cfg.period.get l).val }) ∧
  ∀ (l : LoopId) (s : State), s.fatalF = false → l.recognises (s.st.get l) = false →
    exec (.step l.index) s = .next (fatalResult s l (s.st.get l))

/-- "Every `DISPATCH` that runs loop L is equal in effect to `STEP L` taken in the same state"
(R164, which marks it as derived from R163): `DISPATCH` runs the ready loop with the largest
priority, and does nothing while frozen or idle. The priorities are R161's table, whose exact values
are the spec's decision D11 (log 13, U17: not to be leaned on); only the clause that lists them
rests on it. -/
def Obligations.DispatchRunsHighestReady : Prop :=
  decode (.opw 0x20000000#32) = .ok .dispatch ∧
  (∀ (idx rsv : BitVec 4) (imm : Word), idx ≠ 0#4 ∨ rsv ≠ 0#4 ∨ imm ≠ 0#16 →
    decode (.opw (OpWord.make 2 0 idx rsv imm)) = .error .reservedEncoding) ∧
  (LoopId.prio .echo = 1 ∧ LoopId.prio .car = 2 ∧ LoopId.prio .motor = 4 ∧
    LoopId.prio .steer = 3) ∧
  (∀ s : State, s.fatalF = true → exec .dispatch s = .next s) ∧
  (∀ s : State, (∀ l : LoopId, s.wake.get l ≠ 0#16) → exec .dispatch s = .next s) ∧
  ∀ (l : LoopId) (s : State), s.fatalF = false → s.wake.get l = 0#16 →
    (∀ m : LoopId, s.wake.get m = 0#16 → LoopId.prio m ≤ LoopId.prio l) →
    (l.recognises (s.st.get l) = true →
      ∃ t, exec (.step l.index) s = .next t ∧ exec .dispatch s = .next t ∧ t.fatalF = false) ∧
    (l.recognises (s.st.get l) = false →
      exec .dispatch s = .next (fatalResult s l (s.st.get l)))

/-- R166: `FATAL`, for every loop-state word that is not recognised. -/
def Obligations.FatalLogsArmsAndFreezes : Prop :=
  (∀ (l : LoopId) (v : Byte), l.recognises v = false →
    decode (.lsw (LoopStateWord.form l v)) = .ok (.fatal l v)) ∧
  ∀ (l : LoopId) (v : Byte) (s : State), exec (.fatal l v) s =
    .next { s with
      diag := s.diag ++ [.illegalState l v], wdtArmed := true
      wdtCnt := s.cfg.wdtTimeout.val, fatalF := true }

/-- R167: the frozen state. No loop runs; every other operation does what it does when the block is
not frozen; the only ways out are `RESET` and the watchdog's expiry. That all four loops freeze
depends on the spec's decision D16 (log 13). -/
def Obligations.FrozenBlockRunsNoLoop : Prop :=
  (∀ s : State, s.fatalF = true → exec .dispatch s = .next s) ∧
  (∀ (s : State) (l : LoopId), s.fatalF = true →
    exec (.step l.index) s = .refused .notEnabled) ∧
  (∀ (s t : State) (i : Instr), s.fatalF = true → i.format = .opw → exec i s = .next t →
    t.fatalF = true →
    t.st = s.st ∧ t.trig = s.trig ∧ t.motorOut = s.motorOut ∧ t.steerOut = s.steerOut ∧
    t.diag = s.diag) ∧
  (∀ (s t : State) (i : Instr), s.fatalF = true → i.format = .opw → exec i s = .next t →
    t.fatalF = false →
    i = .reset ∨ (i = .quantum ∧ s.wdtArmed = true ∧ s.wdtCnt.toNat ≤ 1)) ∧
  ∀ (s t : State) (i : Instr), s.fatalF = true → i.format = .opw → i ≠ .dispatch →
    exec i s = .next t → t.fatalF = true →
    exec i { s with fatalF := false } = .next { t with fatalF := false }

/-- "The restart happens exactly `WDT_TIMEOUT` `QUANTUM`s after the `FATAL`" (R168, marked as the
spec's inference): after `FATAL` the block stays frozen for fewer than `WDT_TIMEOUT` quanta, with
its cells, states and outputs as they were, and exactly `WDT_TIMEOUT` quanta restart it. -/
def Obligations.WatchdogRestartsAfterTimeout : Prop :=
  ∀ (l : LoopId) (v : Byte) (s₀ s : State), exec (.fatal l v) s₀ = .next s →
    (∀ k, k < s.cfg.wdtTimeout.val.toNat →
      ∃ t, applyAll (List.replicate k .quantum) s = .next t ∧ t.fatalF = true ∧
        t.st = s.st ∧ t.cells = s.cells ∧ t.motorOut = s.motorOut ∧
        t.steerOut = s.steerOut ∧ t.diag = s.diag) ∧
    ∃ t, applyAll (List.replicate s.cfg.wdtTimeout.val.toNat .quantum) s = .next t ∧
      applyAll [.reset] s = .next t

/-- The watchdog clause of R47, which the spec marks as its inference, kept by every step from every
state that has it, the states with an unrecognised loop state among them. -/
def Obligations.WatchdogCoherenceKept : Prop :=
  ∀ s t : State, WatchdogCoherent s → step s = .next t → WatchdogCoherent t

/-- R171's "every ready loop runs" within four `DISPATCH`es, marked as the spec's inference, for
`RUNALL` (R95): it is `STEP` of each ready loop once, in order of priority, so that every ready loop
runs, no other does, and none is left ready. Which order that is rests on R161's priorities, the
spec's decision D11 (log 13); the statement names none of their values. -/
def Obligations.RunAllServesEveryReadyLoop : Prop :=
  ∀ s : State, s.fatalF = false → RecognisedStates s →
    ∃ (ls : List LoopId) (t u : State),
      (∀ l : LoopId, l ∈ ls ↔ s.wake.get l = 0#16) ∧
      ls.Pairwise (fun l m => LoopId.prio m < LoopId.prio l) ∧
      applyAll Pseudo.runAll.expand s = .next t ∧
      applyAll (ls.map fun l => .step l.index) s = .next u ∧
      t = { u with result := none } ∧
      ∀ l : LoopId, t.wake.get l ≠ 0#16 ∧
        t.wake.get l =
          (if s.wake.get l = 0#16 then (s.cfg.period.get l).val else s.wake.get l)

/-- "Loop L runs every `PERIOD[L]` quanta" (R171, marked as the spec's inference): after an
iteration a loop is ready again after exactly `PERIOD[L]` quanta. -/
def Obligations.LoopReadyAfterItsPeriod : Prop :=
  ∀ (s t : State) (l : LoopId), s.wdtArmed = false → l.recognises (s.st.get l) = true →
    exec (.step l.index) s = .next t →
    ∀ k, ∃ u, applyAll (List.replicate k .quantum) t = .next u ∧
      (u.wake.get l).toNat = (s.cfg.period.get l).val.toNat - k ∧
      (u.wake.get l = 0#16 ↔ (s.cfg.period.get l).val.toNat ≤ k)

/-! ### Encodings -/

/-- R83: a word is read as an instruction exactly when it selects the instruction's row by match and
mask, no word selects two rows, and a word that selects a row can still be refused for its operand.
-/
def Obligations.OpcodeMapSelectsRows : Prop :=
  (∀ (w : OpWord) (i : Instr), decode (.opw w) = .ok i ↔
    ∃ k row, opwRows[k]? = some row ∧ selects w row = true ∧ rowInstr k w = some i) ∧
  (∀ (w : OpWord) (j k : Nat) (r r' : OpWord × OpWord),
    opwRows[j]? = some r → opwRows[k]? = some r' → selects w r = true → selects w r' = true →
    j = k) ∧
  (∀ (c : BitVec 4) (v : Word) (s : State), 5 ≤ c.toNat →
    ∀ i ∈ [Instr.get c, .put c v, .getIsr c, .putIsr c v], exec i s = .refused .badIndex) ∧
  (∀ (l : BitVec 4) (s : State), 4 ≤ l.toNat → exec (.step l) s = .refused .badIndex) ∧
  (∀ (v : Word) (s : State), 2 ≤ v.toNat → exec (.edge v) s = .refused .operandRange) ∧
  ∀ (v : Word) (s : State), 256 ≤ v.toNat →
    exec (.put 0 v) s = .refused .operandRange ∧ exec (.put 2 v) s = .refused .operandRange

/-- R91: a word that selects no row is refused with `ReservedEncoding`. -/
def Obligations.ReservedWordsRefused : Prop :=
  ∀ (w : OpWord) (rest : List OpWord) (s : State), (∀ row ∈ opwRows, selects w row = false) →
    decode (.opw w) = .error .reservedEncoding ∧
    step { s with trace := w :: rest } = .refused .reservedEncoding

/-- R84: the loop-state word of a pair, and the map of the loop-state words: ten rows, and `FATAL`
for every other state value of the four loops. -/
def Obligations.LoopStateWordMap : Prop :=
  (∀ v : Byte,
    LoopStateWord.form .echo v = BitVec.ofNat 16 v.toNat ∧
    LoopStateWord.form .car v = BitVec.ofNat 16 (0x100 + v.toNat) ∧
    LoopStateWord.form .motor v = BitVec.ofNat 16 (0x200 + v.toNat) ∧
    LoopStateWord.form .steer v = BitVec.ofNat 16 (0x300 + v.toNat)) ∧
  decode (.lsw 0x0000#16) = .ok .echoSetup ∧ decode (.lsw 0x0001#16) = .ok .echoRun ∧
  decode (.lsw 0x0100#16) = .ok .carInit ∧ decode (.lsw 0x0101#16) = .ok .carDriving ∧
  decode (.lsw 0x0102#16) = .ok .carStopped ∧ decode (.lsw 0x0103#16) = .ok .carAvoid ∧
  decode (.lsw 0x0200#16) = .ok .motorSetup ∧ decode (.lsw 0x0201#16) = .ok .motorRun ∧
  decode (.lsw 0x0300#16) = .ok .steerSetup ∧ decode (.lsw 0x0301#16) = .ok .steerRun ∧
  ∀ (w : LoopStateWord) (l : LoopId) (v : Byte), w = LoopStateWord.form l v →
    w ∉ [0x0000#16, 0x0001#16, 0x0100#16, 0x0101#16, 0x0102#16, 0x0103#16, 0x0200#16, 0x0201#16,
      0x0300#16, 0x0301#16] →
    decode (.lsw w) = .ok (.fatal l v)

/-- Decode and encode agree (the encoder is the model's own text of R81 to R85): every well-formed
instruction, with every operand, is read back from its word. -/
def Obligations.DecodeEncodeRoundTrip : Prop :=
  ∀ i : Instr, i.wf = true → decode (encode i) = .ok i

/-- The other direction, where each word has one meaning: an operation word or a loop-state word
that is read as an instruction is that instruction's word. -/
def Obligations.EncodeDecodeRoundTrip : Prop :=
  (∀ (w : OpWord) (i : Instr), decode (.opw w) = .ok i → encode i = .opw w) ∧
  ∀ (w : LoopStateWord) (i : Instr), decode (.lsw w) = .ok i → encode i = .lsw w

/-- Words written out in the examples of the rules, read by the decoder. -/
def Obligations.SampleWordsDecode : Prop :=
  decode (.opw 0x0100012C#32) = .ok (.tick 300) ∧
  decode (.opw 0x02000001#32) = .ok (.edge 1) ∧
  decode (.opw 0x10100000#32) = .ok (.get 1) ∧
  decode (.opw 0x11200002#32) = .ok (.put 2 2) ∧
  decode (.opw 0x1310012C#32) = .ok (.putIsr 1 300) ∧
  decode (.opw 0x21300000#32) = .ok (.step 3) ∧
  decode (.opw 0x30000000#32) = .ok .capture

/-! ### Steps and runs -/

/-- A step takes the trace's first word, and is the decoded instruction's meaning in the state
without that word and without the result of the operation before. -/
def Obligations.StepRunsDecodedInstruction : Prop :=
  (∀ (s : State) (w : OpWord) (rest : List OpWord) (i : Instr),
    s.trace = w :: rest → decode (.opw w) = .ok i →
    step s = exec i { s with trace := rest, result := none }) ∧
  ∀ s : State, s.trace = [] → step s = .fault .traceEnded

/-- R213: the outcome of every word in every state: the first refusal reason that applies, in the
order of the rule, and a next state when none does. The flag of U4 is clear (with it set,
`OwnershipFlagRefusesForeignPut`, log 4). -/
def Obligations.OutcomeOfEveryWord : Prop :=
  ∀ (s : State) (w : OpWord) (rest : List OpWord), s.trace = w :: rest →
    s.extWritesOnlyCmd = false →
    (∀ e, decode (.opw w) = .error e → step s = .refused .reservedEncoding) ∧
    (∀ i r, decode (.opw w) = .ok i → firstRefusal i s = some r → step s = .refused r) ∧
    ∀ i, decode (.opw w) = .ok i → firstRefusal i s = none → ∃ t, step s = .next t

/-- R10's "`result` is absent except for `GET`": a step's result is present exactly when the
operation was a `GET`. The field that holds it is the model's choice (log 3). -/
def Obligations.ResultExactlyAfterGet : Prop :=
  ∀ s t : State, step s = .next t →
    (t.result.isSome = true ↔
      ∃ w rest c, s.trace = w :: rest ∧ decode (.opw w) = .ok (.get c))

/-- An execution is a sequence of operations (R9), held in the model's own field `trace` (log 2):
running the machine on the words of a list of operations is applying the operations in
order, refusals included. -/
def Obligations.RunOfTraceAppliesOperations : Prop :=
  ∀ (is : List Instr) (s : State), (∀ i ∈ is, i.format = .opw) →
    Host.Core.run Sys2Proof.core is.length { s with trace := traceWords is } =
      applyAll is { s with trace := [] }

/-! ### Invariants and whole-machine rules -/

/-- The invariants of R47, which the spec marks as its inference, hold at reset. -/
def Obligations.InvariantsHoldAtReset : Prop := Invariant47 State.reset

/-- Every step keeps the invariants of R47 (marked as the spec's inference), while the external
collaborator writes only `DRIVE_CMD` (R28): the flag of U4 is set (as a field it is the model's
choice, log 4), or the word taken respects R28, whatever the flag. Once phase and edge sense are
complementary in an armed unit they stay so, and a `CAPTURE` makes them so. -/
def Obligations.InvariantsKept : Prop :=
  ∀ s t : State, s.extWritesOnlyCmd = true ∨ (∀ w ∈ s.trace.take 1, putsOnlyCmd w = true) →
    Invariant47 s → step s = .next t →
    Invariant47 t ∧ t.extWritesOnlyCmd = s.extWritesOnlyCmd ∧
    (s.armed = true → t.armed = true → SenseComplementsPhase s → SenseComplementsPhase t) ∧
    (∀ rest, s.trace = 0x30000000#32 :: rest → SenseComplementsPhase t)

/-- R47's "in every state reachable from reset by traces that respect" R28 (marked as the spec's
inference): its invariants, and R254's agreement of the setpoints, hold after any number of steps
from reset, for every trace without a `PUT` to a cell other than `DRIVE_CMD`; and from every state
that has them, the flag of U4 set or the trace respecting R28. The trace and the flag are the
model's own fields (log 2, log 4). -/
def Obligations.InvariantsHoldOnEveryRun : Prop :=
  (∀ (ws : List OpWord) (k : Nat) (t : State), (∀ w ∈ ws, putsOnlyCmd w = true) →
    Host.Core.run Sys2Proof.core k { State.reset with trace := ws } = .next t →
    Invariant47 t ∧ SetpointsMatchState t) ∧
  ∀ (s : State) (k : Nat) (t : State),
    s.extWritesOnlyCmd = true ∨ (∀ w ∈ s.trace, putsOnlyCmd w = true) →
    Invariant47 s → SetpointsMatchState s → Host.Core.run Sys2Proof.core k s = .next t →
    Invariant47 t ∧ SetpointsMatchState t

/-- R42's "append-only" and R211's "by nothing else": `DIAG` only grows, by one record, when
`DISPATCH` or `STEP` finds an unrecognised state in a block that is not frozen. -/
def Obligations.DiagAppendOnly : Prop :=
  ∀ (i : Instr) (s t : State), i.format = .opw → exec i s = .next t →
    t.diag = s.diag ∨
    ∃ l : LoopId, t.diag = s.diag ++ [.illegalState l (s.st.get l)] ∧
      l.recognises (s.st.get l) = false ∧ s.fatalF = false ∧ t.fatalF = true ∧
      (i = .dispatch ∨ i = .step l.index)

/-- R48's "nothing else can": a register changes only by an instruction its row lists, or one that
such an instruction runs inside its own step. -/
def Obligations.RegistersWrittenByTheirRows : Prop :=
  ∀ (i : Instr) (s t : State) (r : RegId), exec i s = .next t → r.read t ≠ r.read s →
    r.writtenBy i = true ∨ ∃ j, mayRun i j = true ∧ r.writtenBy j = true

/-- R72's "no operation writes the configuration", of the model's own fields too (log 1, log 2,
log 4). -/
def Obligations.ConfigurationNeverWritten : Prop :=
  ∀ (i : Instr) (s t : State), exec i s = .next t →
    t.cfg = s.cfg ∧ t.extWritesOnlyCmd = s.extWritesOnlyCmd ∧ t.trace = s.trace

/-- R118's torn-read freedom, which the spec marks as its inference: the pulse width is always the
whole of one write: the timer count of a fall arm, the operand of a `PUT`, or the reset value. -/
def Obligations.PulseWidthIsOneWholeWrite : Prop :=
  ∀ (i : Instr) (s t : State), exec i s = .next t →
    t.cells.pulseWidth = s.cells.pulseWidth ∨
    ((i = .capture ∨ i = .captureFall) ∧ t.cells.pulseWidth = s.tcnt) ∨
    ((i = .reset ∨ i = .quantum) ∧ t.cells.pulseWidth = s.cfg.pwInit) ∨
    ∃ v, i = .put 1 v ∧ t.cells.pulseWidth = v

/-- R140's stale value: with no `CAPTURE`, no restart and no `PUT` to it, the pulse width goes
stale: it keeps its value over every list of operations. No restart: the list holds no `QUANTUM`, or
the watchdog is not armed, every loop state is recognised and the list takes no `FATAL`, so that no
`QUANTUM` of it restarts the block. -/
def Obligations.NoCaptureLeavesWidthStale : Prop :=
  ∀ (is : List Instr) (s t : State),
    (∀ i ∈ is, i ≠ .capture ∧ i ≠ .captureFall ∧ i ≠ .reset ∧ ∀ v, i ≠ .put 1 v) →
    (∀ i ∈ is, i ≠ .quantum) ∨
      (s.wdtArmed = false ∧ RecognisedStates s ∧ ∀ i ∈ is, ∀ l v, i ≠ .fatal l v) →
    applyAll is s = .next t → t.cells.pulseWidth = s.cells.pulseWidth

/-- R118's last sentence: an access split into two bytes under the mask is whole. The split access
stands beside the machine and is the model's choice (log 12). -/
def Obligations.MaskedSplitAccessIsWhole : Prop :=
  (∀ s : State, splitGet true s = (s.cells.pulseWidth, s)) ∧
  ∀ (v : Word) (s : State),
    splitPut true v s = { s with cells := { s.cells with pulseWidth := v } }

/-- R244 (a): without the mask a reader can see the torn value 0x01FF when a handler changes the
width from 0x00FF to 0x0100 between the two bytes. The split access stands beside the machine and is
the model's choice (log 12). -/
def Obligations.UnmaskedSplitReadTears : Prop :=
  ∀ s : State, s.capf = true → s.capie = true → s.ie = true → s.cells.edgePhase = 1#8 →
    s.cells.pulseWidth = 0x00FF#16 → s.tcnt = 0x0100#16 →
    (splitGet false s).1 = 0x01FF#16 ∧ (splitGet false s).2.cells.pulseWidth = 0x0100#16

/-- R141: `DIST` is the scaled width, 0 at 0 and monotone, for every parameter value. -/
def Obligations.DistScalesMonotonically : Prop :=
  ∀ c : Config,
    (∀ pw : Word, pulseDistance c pw = (pw.toNat * c.distNum.val) / c.distDen.val) ∧ 1 ≤ c.distDen.val ∧
    pulseDistance c 0 = 0 ∧ ∀ p q : Word, p.toNat ≤ q.toNat → pulseDistance c p ≤ pulseDistance c q
end

