-- ==== Sys2Proof/Laws/Decode.lean ====
section
/-! SUPPORT. The fields of an assembled operation word are the fields it was assembled from (R81),
and the same for a loop-state word (R84). -/

namespace Sys2Proof

@[simp] theorem OpWord.cls_make (cls op idx rsv : BitVec 4) (imm : Word) :
    OpWord.cls (OpWord.make cls op idx rsv imm) = cls := by
  simp only [OpWord.cls, OpWord.make]
  ext i hi
  simp only [BitVec.getElem_extractLsb', BitVec.getLsbD_append]
  simp only [show ¬ (28 + i < 16) by omega, show ¬ (28 + i - 16 < 4) by omega,
    show ¬ (28 + i - 16 - 4 < 4) by omega, show ¬ (28 + i - 16 - 4 - 4 < 4) by omega, if_false]
  rw [BitVec.getLsbD_eq_getElem (by omega)]
  congr 1
  omega

@[simp] theorem OpWord.op_make (cls op idx rsv : BitVec 4) (imm : Word) :
    OpWord.op (OpWord.make cls op idx rsv imm) = op := by
  simp only [OpWord.op, OpWord.make]
  ext i hi
  simp only [BitVec.getElem_extractLsb', BitVec.getLsbD_append]
  simp only [show ¬ (24 + i < 16) by omega, show ¬ (24 + i - 16 < 4) by omega,
    show ¬ (24 + i - 16 - 4 < 4) by omega, show (24 + i - 16 - 4 - 4 < 4) by omega, if_false, if_true]
  rw [BitVec.getLsbD_eq_getElem (by omega)]
  congr 1
  omega

@[simp] theorem OpWord.idx_make (cls op idx rsv : BitVec 4) (imm : Word) :
    OpWord.idx (OpWord.make cls op idx rsv imm) = idx := by
  simp only [OpWord.idx, OpWord.make]
  ext i hi
  simp only [BitVec.getElem_extractLsb', BitVec.getLsbD_append]
  simp only [show ¬ (20 + i < 16) by omega, show ¬ (20 + i - 16 < 4) by omega,
    show (20 + i - 16 - 4 < 4) by omega, if_false, if_true]
  rw [BitVec.getLsbD_eq_getElem (by omega)]
  congr 1
  omega

@[simp] theorem OpWord.rsv_make (cls op idx rsv : BitVec 4) (imm : Word) :
    OpWord.rsv (OpWord.make cls op idx rsv imm) = rsv := by
  simp only [OpWord.rsv, OpWord.make]
  ext i hi
  simp only [BitVec.getElem_extractLsb', BitVec.getLsbD_append]
  simp only [show ¬ (16 + i < 16) by omega, show (16 + i - 16 < 4) by omega, if_false, if_true]
  rw [BitVec.getLsbD_eq_getElem (by omega)]
  congr 1
  omega

@[simp] theorem OpWord.imm_make (cls op idx rsv : BitVec 4) (imm : Word) :
    OpWord.imm (OpWord.make cls op idx rsv imm) = imm := by
  simp only [OpWord.imm, OpWord.make]
  ext i hi
  simp only [BitVec.getElem_extractLsb', BitVec.getLsbD_append]
  simp only [show (0 + i < 16) by omega, if_true]
  rw [BitVec.getLsbD_eq_getElem (by omega)]
  congr 1
  omega

@[simp] theorem LoopStateWord.zero_form (l : LoopId) (v : Byte) :
    LoopStateWord.zero (LoopStateWord.form l v) = 0#4 := by
  simp only [LoopStateWord.zero, LoopStateWord.form]
  ext i hi
  simp only [BitVec.getElem_extractLsb', BitVec.getLsbD_append]
  simp only [show ¬ (12 + i < 8) by omega, show ¬ (12 + i - 8 < 4) by omega, if_false]
  simp

@[simp] theorem LoopStateWord.loop_form (l : LoopId) (v : Byte) :
    LoopStateWord.loop (LoopStateWord.form l v) = l.index := by
  simp only [LoopStateWord.loop, LoopStateWord.form]
  ext i hi
  simp only [BitVec.getElem_extractLsb', BitVec.getLsbD_append]
  simp only [show ¬ (8 + i < 8) by omega, show (8 + i - 8 < 4) by omega, if_false, if_true]
  rw [BitVec.getLsbD_eq_getElem (by omega)]
  congr 1
  omega

@[simp] theorem LoopStateWord.state_form (l : LoopId) (v : Byte) :
    LoopStateWord.state (LoopStateWord.form l v) = v := by
  simp only [LoopStateWord.state, LoopStateWord.form]
  ext i hi
  simp only [BitVec.getElem_extractLsb', BitVec.getLsbD_append]
  simp only [show (0 + i < 8) by omega, if_true]
  rw [BitVec.getLsbD_eq_getElem (by omega)]
  congr 1
  omega

end Sys2Proof
end

