-- ==== Sys2Proof/Laws/State.lean ====
section
/-! SUPPORT. One lemma per field per named update of the state, so that no proof unfolds a record
update. -/

namespace Sys2Proof.Machine

open Sys2Proof

namespace State

/-! `writeCell` -/

@[simp] theorem writeCell_st (c : CellId) (v : BitVec c.width) (s : State) :
    (writeCell c v s).st = s.st := by cases c <;> rfl

@[simp] theorem writeCell_wake (c : CellId) (v : BitVec c.width) (s : State) :
    (writeCell c v s).wake = s.wake := by cases c <;> rfl

@[simp] theorem writeCell_tcnt (c : CellId) (v : BitVec c.width) (s : State) :
    (writeCell c v s).tcnt = s.tcnt := by cases c <;> rfl

@[simp] theorem writeCell_es (c : CellId) (v : BitVec c.width) (s : State) :
    (writeCell c v s).es = s.es := by cases c <;> rfl

@[simp] theorem writeCell_capie (c : CellId) (v : BitVec c.width) (s : State) :
    (writeCell c v s).capie = s.capie := by cases c <;> rfl

@[simp] theorem writeCell_capf (c : CellId) (v : BitVec c.width) (s : State) :
    (writeCell c v s).capf = s.capf := by cases c <;> rfl

@[simp] theorem writeCell_armed (c : CellId) (v : BitVec c.width) (s : State) :
    (writeCell c v s).armed = s.armed := by cases c <;> rfl

@[simp] theorem writeCell_trig (c : CellId) (v : BitVec c.width) (s : State) :
    (writeCell c v s).trig = s.trig := by cases c <;> rfl

@[simp] theorem writeCell_echoIn (c : CellId) (v : BitVec c.width) (s : State) :
    (writeCell c v s).echoIn = s.echoIn := by cases c <;> rfl

@[simp] theorem writeCell_ie (c : CellId) (v : BitVec c.width) (s : State) :
    (writeCell c v s).ie = s.ie := by cases c <;> rfl

@[simp] theorem writeCell_fatalF (c : CellId) (v : BitVec c.width) (s : State) :
    (writeCell c v s).fatalF = s.fatalF := by cases c <;> rfl

@[simp] theorem writeCell_wdtArmed (c : CellId) (v : BitVec c.width) (s : State) :
    (writeCell c v s).wdtArmed = s.wdtArmed := by cases c <;> rfl

@[simp] theorem writeCell_wdtCnt (c : CellId) (v : BitVec c.width) (s : State) :
    (writeCell c v s).wdtCnt = s.wdtCnt := by cases c <;> rfl

@[simp] theorem writeCell_motorOut (c : CellId) (v : BitVec c.width) (s : State) :
    (writeCell c v s).motorOut = s.motorOut := by cases c <;> rfl

@[simp] theorem writeCell_steerOut (c : CellId) (v : BitVec c.width) (s : State) :
    (writeCell c v s).steerOut = s.steerOut := by cases c <;> rfl

@[simp] theorem writeCell_diag (c : CellId) (v : BitVec c.width) (s : State) :
    (writeCell c v s).diag = s.diag := by cases c <;> rfl

@[simp] theorem writeCell_cfg (c : CellId) (v : BitVec c.width) (s : State) :
    (writeCell c v s).cfg = s.cfg := by cases c <;> rfl

@[simp] theorem writeCell_extWritesOnlyCmd (c : CellId) (v : BitVec c.width) (s : State) :
    (writeCell c v s).extWritesOnlyCmd = s.extWritesOnlyCmd := by cases c <;> rfl

@[simp] theorem writeCell_trace (c : CellId) (v : BitVec c.width) (s : State) :
    (writeCell c v s).trace = s.trace := by cases c <;> rfl

@[simp] theorem writeCell_result (c : CellId) (v : BitVec c.width) (s : State) :
    (writeCell c v s).result = s.result := by cases c <;> rfl

/-! `setSt` -/

@[simp] theorem setSt_cells (l : LoopId) (v : Byte) (s : State) :
    (setSt l v s).cells = s.cells := rfl

@[simp] theorem setSt_st (l : LoopId) (v : Byte) (s : State) :
    (setSt l v s).st = s.st.set l v := rfl

@[simp] theorem setSt_wake (l : LoopId) (v : Byte) (s : State) :
    (setSt l v s).wake = s.wake := rfl

@[simp] theorem setSt_tcnt (l : LoopId) (v : Byte) (s : State) :
    (setSt l v s).tcnt = s.tcnt := rfl

@[simp] theorem setSt_es (l : LoopId) (v : Byte) (s : State) :
    (setSt l v s).es = s.es := rfl

@[simp] theorem setSt_capie (l : LoopId) (v : Byte) (s : State) :
    (setSt l v s).capie = s.capie := rfl

@[simp] theorem setSt_capf (l : LoopId) (v : Byte) (s : State) :
    (setSt l v s).capf = s.capf := rfl

@[simp] theorem setSt_armed (l : LoopId) (v : Byte) (s : State) :
    (setSt l v s).armed = s.armed := rfl

@[simp] theorem setSt_trig (l : LoopId) (v : Byte) (s : State) :
    (setSt l v s).trig = s.trig := rfl

@[simp] theorem setSt_echoIn (l : LoopId) (v : Byte) (s : State) :
    (setSt l v s).echoIn = s.echoIn := rfl

@[simp] theorem setSt_ie (l : LoopId) (v : Byte) (s : State) :
    (setSt l v s).ie = s.ie := rfl

@[simp] theorem setSt_fatalF (l : LoopId) (v : Byte) (s : State) :
    (setSt l v s).fatalF = s.fatalF := rfl

@[simp] theorem setSt_wdtArmed (l : LoopId) (v : Byte) (s : State) :
    (setSt l v s).wdtArmed = s.wdtArmed := rfl

@[simp] theorem setSt_wdtCnt (l : LoopId) (v : Byte) (s : State) :
    (setSt l v s).wdtCnt = s.wdtCnt := rfl

@[simp] theorem setSt_motorOut (l : LoopId) (v : Byte) (s : State) :
    (setSt l v s).motorOut = s.motorOut := rfl

@[simp] theorem setSt_steerOut (l : LoopId) (v : Byte) (s : State) :
    (setSt l v s).steerOut = s.steerOut := rfl

@[simp] theorem setSt_diag (l : LoopId) (v : Byte) (s : State) :
    (setSt l v s).diag = s.diag := rfl

@[simp] theorem setSt_cfg (l : LoopId) (v : Byte) (s : State) :
    (setSt l v s).cfg = s.cfg := rfl

@[simp] theorem setSt_extWritesOnlyCmd (l : LoopId) (v : Byte) (s : State) :
    (setSt l v s).extWritesOnlyCmd = s.extWritesOnlyCmd := rfl

@[simp] theorem setSt_trace (l : LoopId) (v : Byte) (s : State) :
    (setSt l v s).trace = s.trace := rfl

@[simp] theorem setSt_result (l : LoopId) (v : Byte) (s : State) :
    (setSt l v s).result = s.result := rfl

/-! `setWake` -/

@[simp] theorem setWake_cells (l : LoopId) (v : Word) (s : State) :
    (setWake l v s).cells = s.cells := rfl

@[simp] theorem setWake_st (l : LoopId) (v : Word) (s : State) :
    (setWake l v s).st = s.st := rfl

@[simp] theorem setWake_wake (l : LoopId) (v : Word) (s : State) :
    (setWake l v s).wake = s.wake.set l v := rfl

@[simp] theorem setWake_tcnt (l : LoopId) (v : Word) (s : State) :
    (setWake l v s).tcnt = s.tcnt := rfl

@[simp] theorem setWake_es (l : LoopId) (v : Word) (s : State) :
    (setWake l v s).es = s.es := rfl

@[simp] theorem setWake_capie (l : LoopId) (v : Word) (s : State) :
    (setWake l v s).capie = s.capie := rfl

@[simp] theorem setWake_capf (l : LoopId) (v : Word) (s : State) :
    (setWake l v s).capf = s.capf := rfl

@[simp] theorem setWake_armed (l : LoopId) (v : Word) (s : State) :
    (setWake l v s).armed = s.armed := rfl

@[simp] theorem setWake_trig (l : LoopId) (v : Word) (s : State) :
    (setWake l v s).trig = s.trig := rfl

@[simp] theorem setWake_echoIn (l : LoopId) (v : Word) (s : State) :
    (setWake l v s).echoIn = s.echoIn := rfl

@[simp] theorem setWake_ie (l : LoopId) (v : Word) (s : State) :
    (setWake l v s).ie = s.ie := rfl

@[simp] theorem setWake_fatalF (l : LoopId) (v : Word) (s : State) :
    (setWake l v s).fatalF = s.fatalF := rfl

@[simp] theorem setWake_wdtArmed (l : LoopId) (v : Word) (s : State) :
    (setWake l v s).wdtArmed = s.wdtArmed := rfl

@[simp] theorem setWake_wdtCnt (l : LoopId) (v : Word) (s : State) :
    (setWake l v s).wdtCnt = s.wdtCnt := rfl

@[simp] theorem setWake_motorOut (l : LoopId) (v : Word) (s : State) :
    (setWake l v s).motorOut = s.motorOut := rfl

@[simp] theorem setWake_steerOut (l : LoopId) (v : Word) (s : State) :
    (setWake l v s).steerOut = s.steerOut := rfl

@[simp] theorem setWake_diag (l : LoopId) (v : Word) (s : State) :
    (setWake l v s).diag = s.diag := rfl

@[simp] theorem setWake_cfg (l : LoopId) (v : Word) (s : State) :
    (setWake l v s).cfg = s.cfg := rfl

@[simp] theorem setWake_extWritesOnlyCmd (l : LoopId) (v : Word) (s : State) :
    (setWake l v s).extWritesOnlyCmd = s.extWritesOnlyCmd := rfl

@[simp] theorem setWake_trace (l : LoopId) (v : Word) (s : State) :
    (setWake l v s).trace = s.trace := rfl

@[simp] theorem setWake_result (l : LoopId) (v : Word) (s : State) :
    (setWake l v s).result = s.result := rfl

/-! `captureEntry` -/

@[simp] theorem captureEntry_cells (s : State) :
    (captureEntry s).cells = s.cells := rfl

@[simp] theorem captureEntry_st (s : State) :
    (captureEntry s).st = s.st := rfl

@[simp] theorem captureEntry_wake (s : State) :
    (captureEntry s).wake = s.wake := rfl

@[simp] theorem captureEntry_tcnt (s : State) :
    (captureEntry s).tcnt = s.tcnt := rfl

@[simp] theorem captureEntry_es (s : State) :
    (captureEntry s).es = s.es := rfl

@[simp] theorem captureEntry_capie (s : State) :
    (captureEntry s).capie = s.capie := rfl

@[simp] theorem captureEntry_capf (s : State) :
    (captureEntry s).capf = false := rfl

@[simp] theorem captureEntry_armed (s : State) :
    (captureEntry s).armed = s.armed := rfl

@[simp] theorem captureEntry_trig (s : State) :
    (captureEntry s).trig = s.trig := rfl

@[simp] theorem captureEntry_echoIn (s : State) :
    (captureEntry s).echoIn = s.echoIn := rfl

@[simp] theorem captureEntry_ie (s : State) :
    (captureEntry s).ie = s.ie := rfl

@[simp] theorem captureEntry_fatalF (s : State) :
    (captureEntry s).fatalF = s.fatalF := rfl

@[simp] theorem captureEntry_wdtArmed (s : State) :
    (captureEntry s).wdtArmed = s.wdtArmed := rfl

@[simp] theorem captureEntry_wdtCnt (s : State) :
    (captureEntry s).wdtCnt = s.wdtCnt := rfl

@[simp] theorem captureEntry_motorOut (s : State) :
    (captureEntry s).motorOut = s.motorOut := rfl

@[simp] theorem captureEntry_steerOut (s : State) :
    (captureEntry s).steerOut = s.steerOut := rfl

@[simp] theorem captureEntry_diag (s : State) :
    (captureEntry s).diag = s.diag := rfl

@[simp] theorem captureEntry_cfg (s : State) :
    (captureEntry s).cfg = s.cfg := rfl

@[simp] theorem captureEntry_extWritesOnlyCmd (s : State) :
    (captureEntry s).extWritesOnlyCmd = s.extWritesOnlyCmd := rfl

@[simp] theorem captureEntry_trace (s : State) :
    (captureEntry s).trace = s.trace := rfl

@[simp] theorem captureEntry_result (s : State) :
    (captureEntry s).result = s.result := rfl

/-! `takeWord` -/

@[simp] theorem takeWord_cells (rest : List OpWord) (s : State) :
    (takeWord rest s).cells = s.cells := rfl

@[simp] theorem takeWord_st (rest : List OpWord) (s : State) :
    (takeWord rest s).st = s.st := rfl

@[simp] theorem takeWord_wake (rest : List OpWord) (s : State) :
    (takeWord rest s).wake = s.wake := rfl

@[simp] theorem takeWord_tcnt (rest : List OpWord) (s : State) :
    (takeWord rest s).tcnt = s.tcnt := rfl

@[simp] theorem takeWord_es (rest : List OpWord) (s : State) :
    (takeWord rest s).es = s.es := rfl

@[simp] theorem takeWord_capie (rest : List OpWord) (s : State) :
    (takeWord rest s).capie = s.capie := rfl

@[simp] theorem takeWord_capf (rest : List OpWord) (s : State) :
    (takeWord rest s).capf = s.capf := rfl

@[simp] theorem takeWord_armed (rest : List OpWord) (s : State) :
    (takeWord rest s).armed = s.armed := rfl

@[simp] theorem takeWord_trig (rest : List OpWord) (s : State) :
    (takeWord rest s).trig = s.trig := rfl

@[simp] theorem takeWord_echoIn (rest : List OpWord) (s : State) :
    (takeWord rest s).echoIn = s.echoIn := rfl

@[simp] theorem takeWord_ie (rest : List OpWord) (s : State) :
    (takeWord rest s).ie = s.ie := rfl

@[simp] theorem takeWord_fatalF (rest : List OpWord) (s : State) :
    (takeWord rest s).fatalF = s.fatalF := rfl

@[simp] theorem takeWord_wdtArmed (rest : List OpWord) (s : State) :
    (takeWord rest s).wdtArmed = s.wdtArmed := rfl

@[simp] theorem takeWord_wdtCnt (rest : List OpWord) (s : State) :
    (takeWord rest s).wdtCnt = s.wdtCnt := rfl

@[simp] theorem takeWord_motorOut (rest : List OpWord) (s : State) :
    (takeWord rest s).motorOut = s.motorOut := rfl

@[simp] theorem takeWord_steerOut (rest : List OpWord) (s : State) :
    (takeWord rest s).steerOut = s.steerOut := rfl

@[simp] theorem takeWord_diag (rest : List OpWord) (s : State) :
    (takeWord rest s).diag = s.diag := rfl

@[simp] theorem takeWord_cfg (rest : List OpWord) (s : State) :
    (takeWord rest s).cfg = s.cfg := rfl

@[simp] theorem takeWord_extWritesOnlyCmd (rest : List OpWord) (s : State) :
    (takeWord rest s).extWritesOnlyCmd = s.extWritesOnlyCmd := rfl

@[simp] theorem takeWord_trace (rest : List OpWord) (s : State) :
    (takeWord rest s).trace = rest := rfl

@[simp] theorem takeWord_result (rest : List OpWord) (s : State) :
    (takeWord rest s).result = none := rfl

/-! `withOpWord` -/

@[simp] theorem withOpWord_cells (w : OpWord) (s : State) :
    (withOpWord w s).cells = s.cells := rfl

@[simp] theorem withOpWord_st (w : OpWord) (s : State) :
    (withOpWord w s).st = s.st := rfl

@[simp] theorem withOpWord_wake (w : OpWord) (s : State) :
    (withOpWord w s).wake = s.wake := rfl

@[simp] theorem withOpWord_tcnt (w : OpWord) (s : State) :
    (withOpWord w s).tcnt = s.tcnt := rfl

@[simp] theorem withOpWord_es (w : OpWord) (s : State) :
    (withOpWord w s).es = s.es := rfl

@[simp] theorem withOpWord_capie (w : OpWord) (s : State) :
    (withOpWord w s).capie = s.capie := rfl

@[simp] theorem withOpWord_capf (w : OpWord) (s : State) :
    (withOpWord w s).capf = s.capf := rfl

@[simp] theorem withOpWord_armed (w : OpWord) (s : State) :
    (withOpWord w s).armed = s.armed := rfl

@[simp] theorem withOpWord_trig (w : OpWord) (s : State) :
    (withOpWord w s).trig = s.trig := rfl

@[simp] theorem withOpWord_echoIn (w : OpWord) (s : State) :
    (withOpWord w s).echoIn = s.echoIn := rfl

@[simp] theorem withOpWord_ie (w : OpWord) (s : State) :
    (withOpWord w s).ie = s.ie := rfl

@[simp] theorem withOpWord_fatalF (w : OpWord) (s : State) :
    (withOpWord w s).fatalF = s.fatalF := rfl

@[simp] theorem withOpWord_wdtArmed (w : OpWord) (s : State) :
    (withOpWord w s).wdtArmed = s.wdtArmed := rfl

@[simp] theorem withOpWord_wdtCnt (w : OpWord) (s : State) :
    (withOpWord w s).wdtCnt = s.wdtCnt := rfl

@[simp] theorem withOpWord_motorOut (w : OpWord) (s : State) :
    (withOpWord w s).motorOut = s.motorOut := rfl

@[simp] theorem withOpWord_steerOut (w : OpWord) (s : State) :
    (withOpWord w s).steerOut = s.steerOut := rfl

@[simp] theorem withOpWord_diag (w : OpWord) (s : State) :
    (withOpWord w s).diag = s.diag := rfl

@[simp] theorem withOpWord_cfg (w : OpWord) (s : State) :
    (withOpWord w s).cfg = s.cfg := rfl

@[simp] theorem withOpWord_extWritesOnlyCmd (w : OpWord) (s : State) :
    (withOpWord w s).extWritesOnlyCmd = s.extWritesOnlyCmd := rfl

@[simp] theorem withOpWord_trace (w : OpWord) (s : State) :
    (withOpWord w s).trace = w :: s.trace := rfl

@[simp] theorem withOpWord_result (w : OpWord) (s : State) :
    (withOpWord w s).result = s.result := rfl

/-! `fatal` -/

@[simp] theorem fatal_cells (l : LoopId) (v : Byte) (s : State) :
    (fatal l v s).cells = s.cells := rfl

@[simp] theorem fatal_st (l : LoopId) (v : Byte) (s : State) :
    (fatal l v s).st = s.st := rfl

@[simp] theorem fatal_wake (l : LoopId) (v : Byte) (s : State) :
    (fatal l v s).wake = s.wake := rfl

@[simp] theorem fatal_tcnt (l : LoopId) (v : Byte) (s : State) :
    (fatal l v s).tcnt = s.tcnt := rfl

@[simp] theorem fatal_es (l : LoopId) (v : Byte) (s : State) :
    (fatal l v s).es = s.es := rfl

@[simp] theorem fatal_capie (l : LoopId) (v : Byte) (s : State) :
    (fatal l v s).capie = s.capie := rfl

@[simp] theorem fatal_capf (l : LoopId) (v : Byte) (s : State) :
    (fatal l v s).capf = s.capf := rfl

@[simp] theorem fatal_armed (l : LoopId) (v : Byte) (s : State) :
    (fatal l v s).armed = s.armed := rfl

@[simp] theorem fatal_trig (l : LoopId) (v : Byte) (s : State) :
    (fatal l v s).trig = s.trig := rfl

@[simp] theorem fatal_echoIn (l : LoopId) (v : Byte) (s : State) :
    (fatal l v s).echoIn = s.echoIn := rfl

@[simp] theorem fatal_ie (l : LoopId) (v : Byte) (s : State) :
    (fatal l v s).ie = s.ie := rfl

@[simp] theorem fatal_fatalF (l : LoopId) (v : Byte) (s : State) :
    (fatal l v s).fatalF = true := rfl

@[simp] theorem fatal_wdtArmed (l : LoopId) (v : Byte) (s : State) :
    (fatal l v s).wdtArmed = true := rfl

@[simp] theorem fatal_wdtCnt (l : LoopId) (v : Byte) (s : State) :
    (fatal l v s).wdtCnt = s.cfg.wdtTimeout.val := rfl

@[simp] theorem fatal_motorOut (l : LoopId) (v : Byte) (s : State) :
    (fatal l v s).motorOut = s.motorOut := rfl

@[simp] theorem fatal_steerOut (l : LoopId) (v : Byte) (s : State) :
    (fatal l v s).steerOut = s.steerOut := rfl

@[simp] theorem fatal_diag (l : LoopId) (v : Byte) (s : State) :
    (fatal l v s).diag = s.diag ++ [.illegalState l v] := rfl

@[simp] theorem fatal_cfg (l : LoopId) (v : Byte) (s : State) :
    (fatal l v s).cfg = s.cfg := rfl

@[simp] theorem fatal_extWritesOnlyCmd (l : LoopId) (v : Byte) (s : State) :
    (fatal l v s).extWritesOnlyCmd = s.extWritesOnlyCmd := rfl

@[simp] theorem fatal_trace (l : LoopId) (v : Byte) (s : State) :
    (fatal l v s).trace = s.trace := rfl

@[simp] theorem fatal_result (l : LoopId) (v : Byte) (s : State) :
    (fatal l v s).result = s.result := rfl

/-! `doReset` -/

@[simp] theorem doReset_cells (s : State) :
    (doReset s).cells = { edgePhase := 0, pulseWidth := s.cfg.pwInit, driveCmd := 0, motorSp := 0, steerSp := 0 } := rfl

@[simp] theorem doReset_st (s : State) :
    (doReset s).st = { echo := 0, car := 0, motor := 0, steer := 0 } := rfl

@[simp] theorem doReset_wake (s : State) :
    (doReset s).wake = { echo := 0, car := 0, motor := 0, steer := 0 } := rfl

@[simp] theorem doReset_tcnt (s : State) :
    (doReset s).tcnt = 0 := rfl

@[simp] theorem doReset_es (s : State) :
    (doReset s).es = false := rfl

@[simp] theorem doReset_capie (s : State) :
    (doReset s).capie = false := rfl

@[simp] theorem doReset_capf (s : State) :
    (doReset s).capf = false := rfl

@[simp] theorem doReset_armed (s : State) :
    (doReset s).armed = false := rfl

@[simp] theorem doReset_trig (s : State) :
    (doReset s).trig = false := rfl

@[simp] theorem doReset_echoIn (s : State) :
    (doReset s).echoIn = s.echoIn := rfl

@[simp] theorem doReset_ie (s : State) :
    (doReset s).ie = true := rfl

@[simp] theorem doReset_fatalF (s : State) :
    (doReset s).fatalF = false := rfl

@[simp] theorem doReset_wdtArmed (s : State) :
    (doReset s).wdtArmed = false := rfl

@[simp] theorem doReset_wdtCnt (s : State) :
    (doReset s).wdtCnt = 0 := rfl

@[simp] theorem doReset_motorOut (s : State) :
    (doReset s).motorOut = 0 := rfl

@[simp] theorem doReset_steerOut (s : State) :
    (doReset s).steerOut = 0 := rfl

@[simp] theorem doReset_diag (s : State) :
    (doReset s).diag = s.diag := rfl

@[simp] theorem doReset_cfg (s : State) :
    (doReset s).cfg = s.cfg := rfl

@[simp] theorem doReset_extWritesOnlyCmd (s : State) :
    (doReset s).extWritesOnlyCmd = s.extWritesOnlyCmd := rfl

@[simp] theorem doReset_trace (s : State) :
    (doReset s).trace = s.trace := rfl

@[simp] theorem doReset_result (s : State) :
    (doReset s).result = s.result := rfl

end State

end Sys2Proof.Machine
end

