-- ==== Sys2Proof/Laws/Ops.lean ====
section
/-! SUPPORT. What each shared operation can do, said once (Ops, Operands, Flags and the loop-state
steps): later proofs cite these and do not unfold the operations. -/

namespace Sys2Proof

/-! ### Loop banks -/

@[simp] theorem LoopBank.get_set_same {α : Type} (b : LoopBank α) (l : LoopId) (v : α) :
    (b.set l v).get l = v := by cases l <;> rfl

theorem LoopBank.get_set_other {α : Type} (b : LoopBank α) {l m : LoopId} (v : α) (h : m ≠ l) :
    (b.set l v).get m = b.get m := by
  cases l <;> cases m <;> first | rfl | exact absurd rfl h

theorem LoopBank.get_set {α : Type} (b : LoopBank α) (l m : LoopId) (v : α) :
    (b.set l v).get m = if m = l then v else b.get m := by
  cases l <;> cases m <;> rfl

@[simp] theorem LoopBank.get_map {α β : Type} (f : α → β) (b : LoopBank α) (l : LoopId) :
    (b.map f).get l = f (b.get l) := by cases l <;> rfl

@[simp] theorem LoopId.mem_all (l : LoopId) : l ∈ LoopId.all := by
  cases l <;> simp [LoopId.all]

/-- How many states a loop recognises: 0 up to this number, not included (R29). -/
def LoopId.stateCount : LoopId → Nat
  | .car => 4
  | .echo | .motor | .steer => 2

theorem LoopId.recognises_iff (l : LoopId) (v : Byte) :
    l.recognises v = true ↔ v.toNat < l.stateCount := by
  cases l <;> simp [LoopId.recognises, LoopId.stateCount]

@[simp] theorem LoopId.ofIndex_index (l : LoopId) : LoopId.ofIndex l.index = some l := by
  cases l <;> rfl

@[simp] theorem CellId.ofIndex_index (c : CellId) : CellId.ofIndex c.index = some c := by
  cases c <;> rfl

/-- Every index field below 5 names a cell, every other one none (R21). -/
theorem CellId.ofIndex_cases (c : BitVec 4) :
    (∃ cell, CellId.ofIndex c = some cell ∧ c = cell.index ∧ c.toNat < 5) ∨
    (CellId.ofIndex c = none ∧ 5 ≤ c.toNat) := by
  revert c; decide

/-- Every id field below 4 names a loop, every other one none (R164). -/
theorem LoopId.ofIndex_cases (l : BitVec 4) :
    (∃ loop, LoopId.ofIndex l = some loop ∧ l = loop.index ∧ l.toNat < 4) ∨
    (LoopId.ofIndex l = none ∧ 4 ≤ l.toNat) := by
  revert l; decide

/-! ### Parameters -/

theorem NonZero16.val_toNat (x : NonZero16) : x.val.toNat = x.pred.val + 1 := by
  have := x.pred.isLt
  simp only [NonZero16.val, BitVec.toNat_ofNat]
  omega

theorem NonZero16.one_le (x : NonZero16) : 1 ≤ x.val.toNat := by
  rw [x.val_toNat]; omega

theorem PosI16.val_toNat (x : PosI16) : x.val.toNat = x.pred.val + 1 := by
  have := x.pred.isLt
  simp only [PosI16.val, BitVec.toNat_ofNat]
  omega

theorem PosI16.val_pos (x : PosI16) : 0 < x.val.toInt := by
  have h := x.pred.isLt
  rw [BitVec.toInt_eq_toNat_cond, x.val_toNat]
  split <;> omega

namespace Machine

/-! ### Cells -/

@[simp] theorem readCell_writeCell_same (c : CellId) (v : BitVec c.width) (s : State) :
    readCell c (writeCell c v s) = v := by cases c <;> rfl

theorem readCell_writeCell_other {c d : CellId} (v : BitVec c.width) (s : State) (h : d ≠ c) :
    readCell d (writeCell c v s) = readCell d s := by
  cases c <;> cases d <;> first | rfl | exact absurd rfl h

/-- The mask is put back exactly: what the action did stays, `IE` is as before (R116). -/
theorem withMask_snd {α : Type} (action : State → α × State) (s : State) :
    (withMask action s).2 = { (action { s with ie := false }).2 with ie := s.ie } := rfl

/-- A masked read returns the cell and changes nothing (R111). -/
@[simp] theorem cellGet_eq (c : CellId) (s : State) : cellGet c s = (readCell c s, s) := by
  cases c <;> rfl

/-- A masked write is the write (R112). -/
@[simp] theorem cellPut_eq (c : CellId) (v : BitVec c.width) (s : State) :
    cellPut c v s = writeCell c v s := by cases c <;> rfl

@[simp] theorem cellGetIsr_eq (c : CellId) (s : State) : cellGetIsr c s = readCell c s := rfl

@[simp] theorem cellPutIsr_eq (c : CellId) (v : BitVec c.width) (s : State) :
    cellPutIsr c v s = writeCell c v s := rfl

/-! ### Counters -/

/-- Counting down is subtraction that stops at 0 (R16 (b)). -/
@[simp] theorem countDown_toNat (v : Word) : (countDown v).toNat = v.toNat - 1 := by
  unfold countDown
  split
  · have : 1 ≤ v.toNat := by omega
    simp [BitVec.toNat_sub]
    have := v.isLt
    omega
  · omega

theorem countDown_zero : countDown 0#16 = 0#16 := rfl

/-- The watchdog's part of a quantum: nothing, one count, or the restart (R162, R168). -/
theorem watchdogTick_cases (s : State) :
    (s.wdtArmed = false ∧ watchdogTick s = s) ∨
    (s.wdtArmed = true ∧ 2 ≤ s.wdtCnt.toNat ∧
      watchdogTick s = { s with wdtCnt := countDown s.wdtCnt }) ∨
    (s.wdtArmed = true ∧ s.wdtCnt.toNat ≤ 1 ∧ watchdogTick s = doReset s) := by
  unfold watchdogTick watchdogExpiry
  cases h : s.wdtArmed
  · simp
  · simp only [if_true, countDown_toNat, true_and]
    by_cases h2 : 2 ≤ s.wdtCnt.toNat
    · simp only [h2, true_and, Bool.true_eq_false, false_and, false_or]
      left
      rw [if_neg (by omega)]
    · right; right
      refine ⟨by omega, ?_⟩
      rw [if_pos (by omega)]
      rfl

/-- `QUANTUM`, case by case (R162). -/
theorem quantum_cases (s : State) :
    (s.wdtArmed = false ∧ quantum s = { s with wake := s.wake.map countDown }) ∨
    (s.wdtArmed = true ∧ 2 ≤ s.wdtCnt.toNat ∧
      quantum s = { s with wake := s.wake.map countDown, wdtCnt := countDown s.wdtCnt }) ∨
    (s.wdtArmed = true ∧ s.wdtCnt.toNat ≤ 1 ∧ quantum s = doReset s) := by
  rcases watchdogTick_cases { s with wake := s.wake.map countDown } with ⟨h, e⟩ | ⟨h, h2, e⟩ | ⟨h, h2, e⟩
  · exact .inl ⟨h, e⟩
  · exact .inr (.inl ⟨h, h2, e⟩)
  · exact .inr (.inr ⟨h, h2, e⟩)

/-- A quantum at which the watchdog expires is the restart (R168). -/
theorem quantum_of_expires {s : State} (h : watchdogExpires s = true) : quantum s = doReset s := by
  simp only [watchdogExpires, Bool.and_eq_true, beq_iff_eq, countDown_toNat] at h
  rcases quantum_cases s with ⟨ha, _⟩ | ⟨_, hc, _⟩ | ⟨_, _, e⟩
  · simp [h.1] at ha
  · omega
  · exact e

/-! ### The steps, as one record update each -/

theorem echoSetup_eq (s : State) :
    echoSetup s =
      { s with
        es := true, capf := false, trig := true, capie := true, armed := true
        cells := { s.cells with edgePhase := phaseSeed s.cfg }
        st := { s.st with echo := 1#8 } } := rfl

theorem captureRise_eq (t : Word) (s : State) :
    captureRise t s =
      { s with es := false, tcnt := 0#16, cells := { s.cells with edgePhase := 1#8 } } := rfl

theorem captureFall_eq (t : Word) (s : State) :
    captureFall t s =
      { s with es := true, cells := { s.cells with pulseWidth := t, edgePhase := 0#8 } } := rfl

/-- The handler takes the rise arm on phase 0 and the fall arm on every other phase (R85, R135). -/
theorem captureHandler_cases (s : State) :
    (s.cells.edgePhase = 0#8 ∧
      captureHandler s =
        { s with
          capf := false, es := false, tcnt := 0#16
          cells := { s.cells with edgePhase := 1#8 } }) ∨
    (s.cells.edgePhase ≠ 0#8 ∧
      captureHandler s =
        { s with
          capf := false, es := true
          cells := { s.cells with pulseWidth := s.tcnt, edgePhase := 0#8 } }) := by
  by_cases h : s.cells.edgePhase = 0#8
  · left
    refine ⟨h, ?_⟩
    simp only [captureHandler, captureReturn, captureEntry, cellGetIsr, readCell, h, if_true]
    rfl
  · right
    refine ⟨h, ?_⟩
    simp only [captureHandler, captureReturn, captureEntry, cellGetIsr, readCell, h, if_false]
    rfl

theorem putSetpoints_eq (motor steer : Word) (s : State) :
    putSetpoints motor steer s =
      { s with cells := { s.cells with motorSp := motor, steerSp := steer } } := rfl

/-- The setpoints of a car-control state (R185, R186), as a pair. -/
def setpointsOf (n : CarState) (s : State) : Word × Word :=
  match n with
  | .stopped => (0#16, 0#16)
  | .driving => (s.cfg.motorFwd.val, 0#16)
  | .avoid =>
    if s.cells.pulseWidth.toNat < 150 then (s.cfg.avoidMotorClose, s.cfg.steerDeflect.val)
    else (s.cfg.avoidMotorClear, 0#16)

/-- Entering a car-control state writes its number and both setpoints, and nothing else (R180). -/
theorem enterCar_eq (n : CarState) (s : State) :
    enterCar n s =
      { s with
        st := { s.st with car := n.code }
        cells :=
          { s.cells with
            motorSp := (setpointsOf n s).1, steerSp := (setpointsOf n s).2 } } := by
  cases n
  · rfl
  · rfl
  · simp only [enterCar, emit, cellGet_eq, readCell, setpointsOf, threshold]
    change (if s.cells.pulseWidth.toNat < 150 then _ else _) = _
    split <;> rfl

theorem carStep_eq (choose : Byte → CarState) (s : State) :
    carStep choose s = enterCar (choose s.cells.driveCmd) s := by
  simp only [carStep, cellGet_eq, readCell]

theorem motorRun_eq (s : State) : motorRun s = { s with motorOut := s.cells.motorSp } := rfl

theorem steerRun_eq (s : State) : steerRun s = { s with steerOut := s.cells.steerSp } := rfl

end Machine

end Sys2Proof
end

