-- ==== Sys2Proof/Laws/Dispatcher.lean ====
section
/-! SUPPORT. What the dispatcher can do, said once: `body`, `iterate`, the choice of a loop, and the
inversion lemmas of the operations that can refuse. -/

namespace Sys2Proof.Machine

open Sys2Proof

/-! ### `body(L)`, loop by loop (R165) -/

theorem body_echo (s : State) :
    body .echo s =
      if s.st.echo.toNat = 0 then (true, echoSetup s)
      else if s.st.echo.toNat = 1 then (true, echoRun s)
      else (false, fatal .echo s.st.echo s) := by
  unfold body
  simp only [LoopBank.get]
  rcases s.st.echo.toNat with _ | _ | n <;> simp

theorem body_car (s : State) :
    body .car s =
      if s.st.car.toNat = 0 then (true, carInit s)
      else if s.st.car.toNat = 1 then (true, carDriving s)
      else if s.st.car.toNat = 2 then (true, carStopped s)
      else if s.st.car.toNat = 3 then (true, carAvoid s)
      else (false, fatal .car s.st.car s) := by
  unfold body
  simp only [LoopBank.get]
  rcases s.st.car.toNat with _ | _ | _ | _ | n <;> simp

theorem body_motor (s : State) :
    body .motor s =
      if s.st.motor.toNat = 0 then (true, motorSetup s)
      else if s.st.motor.toNat = 1 then (true, motorRun s)
      else (false, fatal .motor s.st.motor s) := by
  unfold body
  simp only [LoopBank.get]
  rcases s.st.motor.toNat with _ | _ | n <;> simp

theorem body_steer (s : State) :
    body .steer s =
      if s.st.steer.toNat = 0 then (true, steerSetup s)
      else if s.st.steer.toNat = 1 then (true, steerRun s)
      else (false, fatal .steer s.st.steer s) := by
  unfold body
  simp only [LoopBank.get]
  rcases s.st.steer.toNat with _ | _ | n <;> simp

/-- An unrecognised state takes `FATAL` (R166). -/
theorem body_unrecognised (l : LoopId) (s : State) (h : l.recognises (s.st.get l) = false) :
    body l s = (false, fatal l (s.st.get l) s) := by
  cases l <;>
    simp only [LoopId.recognises_iff, LoopId.stateCount, LoopBank.get, ← Bool.not_eq_true, Nat.not_lt] at h ⊢
  · rw [body_echo, if_neg (by omega), if_neg (by omega)]
  · rw [body_car, if_neg (by omega), if_neg (by omega), if_neg (by omega), if_neg (by omega)]
  · rw [body_motor, if_neg (by omega), if_neg (by omega)]
  · rw [body_steer, if_neg (by omega), if_neg (by omega)]

/-- Every recognised step reports success (R165). -/
theorem body_recognised (l : LoopId) (s : State) (h : l.recognises (s.st.get l) = true) :
    (body l s).1 = true := by
  cases l <;> simp only [LoopId.recognises_iff, LoopId.stateCount, LoopBank.get] at h
  · rw [body_echo]; repeat' split
    all_goals first | rfl | omega
  · rw [body_car]; repeat' split
    all_goals first | rfl | omega
  · rw [body_motor]; repeat' split
    all_goals first | rfl | omega
  · rw [body_steer]; repeat' split
    all_goals first | rfl | omega

/-- A loop-state step leaves the wake counters, the timer count, the pins it does not own, the
configuration and the model's inputs alone. -/
theorem body_keeps (l : LoopId) (s : State) :
    (body l s).2.wake = s.wake ∧ (body l s).2.cfg = s.cfg ∧ (body l s).2.trace = s.trace ∧
    (body l s).2.result = s.result ∧ (body l s).2.extWritesOnlyCmd = s.extWritesOnlyCmd ∧
    (body l s).2.ie = s.ie ∧ (body l s).2.tcnt = s.tcnt ∧ (body l s).2.echoIn = s.echoIn := by
  cases l
  · rw [body_echo]; repeat' split
    all_goals simp [echoSetup_eq, echoRun]
  · rw [body_car]; repeat' split
    all_goals simp [carInit, carDriving, carStopped, carAvoid, carStep_eq, enterCar_eq]
  · rw [body_motor]; repeat' split
    all_goals simp [motorSetup, motorRun_eq]
  · rw [body_steer]; repeat' split
    all_goals simp [steerSetup, steerRun_eq]

/-- One iteration: the step and the reload of the wake counter, or `FATAL` alone (R163). -/
theorem iterate_cases (l : LoopId) (s : State) :
    (l.recognises (s.st.get l) = true ∧
      iterate l s = setWake l (s.cfg.period.get l).val (body l s).2) ∨
    (l.recognises (s.st.get l) = false ∧ iterate l s = fatal l (s.st.get l) s) := by
  cases h : l.recognises (s.st.get l)
  · right
    simp [iterate, body_unrecognised l s h]
  · left
    simp [iterate, body_recognised l s h, (body_keeps l s).2.1]

theorem mem_ready (l : LoopId) (s : State) : l ∈ ready s ↔ (s.wake.get l).toNat = 0 := by
  simp [ready]

theorem highest_eq_none {ls : List LoopId} : highest ls = none ↔ ls = [] := by
  cases ls with
  | nil => simp [highest]
  | cons l ls =>
    simp only [highest]
    cases highest ls with
    | none => simp
    | some m => simp only [reduceCtorEq, iff_false]; split <;> simp

/-- The chosen loop is a member and no member has a larger priority (R163). -/
theorem highest_eq_some {ls : List LoopId} {l : LoopId} (h : highest ls = some l) :
    l ∈ ls ∧ ∀ m ∈ ls, LoopId.prio m ≤ LoopId.prio l := by
  induction ls generalizing l with
  | nil => simp [highest] at h
  | cons a ls ih =>
    simp only [highest] at h
    cases hh : highest ls with
    | none =>
      rw [hh] at h
      have e : ls = [] := highest_eq_none.1 hh
      simp only [Option.some.injEq] at h
      subst h; subst e
      simp
    | some m =>
      rw [hh] at h
      obtain ⟨hm, hmax⟩ := ih hh
      simp only at h
      split at h <;> simp only [Option.some.injEq] at h <;> subst h
      · refine ⟨by simp [hm], fun x hx => ?_⟩
        rcases List.mem_cons.1 hx with rfl | hx
        · omega
        · exact hmax x hx
      · refine ⟨by simp, fun x hx => ?_⟩
        rcases List.mem_cons.1 hx with rfl | hx
        · omega
        · have := hmax x hx; omega

/-- Priorities are distinct (R161: one loop per level). -/
theorem prio_injective {l m : LoopId} (h : LoopId.prio l = LoopId.prio m) : l = m := by
  cases l <;> cases m <;> first | rfl | exact absurd h (by decide)

/-- `DISPATCH`: nothing while frozen or idle, else one iteration of the highest ready loop. -/
theorem dispatch_cases (s : State) :
    (s.fatalF = true ∧ dispatch s = s) ∨
    (s.fatalF = false ∧ (∀ l, (s.wake.get l).toNat ≠ 0) ∧ dispatch s = s) ∨
    (∃ l, s.fatalF = false ∧ (s.wake.get l).toNat = 0 ∧
      (∀ m, (s.wake.get m).toNat = 0 → LoopId.prio m ≤ LoopId.prio l) ∧
      dispatch s = iterate l s) := by
  cases hf : s.fatalF
  · right
    cases hh : highest (ready s) with
    | none =>
      left
      refine ⟨rfl, fun l hl => ?_, by simp [dispatch, frozen, hf, hh]⟩
      have := (mem_ready l s).2 hl
      rw [highest_eq_none.1 hh] at this
      simp at this
    | some l =>
      right
      obtain ⟨hl, hmax⟩ := highest_eq_some hh
      exact ⟨l, rfl, (mem_ready l s).1 hl, fun m hm => hmax m ((mem_ready m s).2 hm),
        by simp [dispatch, frozen, hf, hh]⟩
  · left
    exact ⟨rfl, by simp [dispatch, frozen, hf]⟩

/-- A ready loop that no ready loop outranks is the one `DISPATCH` runs (R163). -/
theorem dispatch_of_highest {s : State} {l : LoopId} (hf : s.fatalF = false)
    (hl : (s.wake.get l).toNat = 0)
    (hmax : ∀ m, (s.wake.get m).toNat = 0 → LoopId.prio m ≤ LoopId.prio l) :
    dispatch s = iterate l s := by
  rcases dispatch_cases s with ⟨h, _⟩ | ⟨_, h, _⟩ | ⟨k, _, hk, hkmax, e⟩
  · rw [hf] at h; cases h
  · exact absurd hl (h l)
  · rw [e, prio_injective (Nat.le_antisymm (hmax k hk) (hkmax l hl))]

/-! ### Inversion: what a next state of an operation that can refuse looks like -/

theorem execGet_next {c : BitVec 4} {s t : State} (h : execGet c s = .next t) :
    ∃ cell, CellId.ofIndex c = some cell ∧
      t = { s with result := some (ext16 cell (readCell cell s)) } := by
  unfold execGet at h
  split at h
  · cases h
  · rename_i cell hc
    simp only [cellGet_eq, Host.Outcome.next.injEq] at h
    exact ⟨cell, hc, h.symm⟩

theorem execPut_next {c : BitVec 4} {v : Word} {s t : State} (h : execPut c v s = .next t) :
    ∃ cell x, CellId.ofIndex c = some cell ∧ putValue cell v = some x ∧
      (s.extWritesOnlyCmd = true → cell = .driveCmd) ∧ t = writeCell cell x s := by
  unfold execPut at h
  split at h
  · cases h
  · rename_i cell hc
    split at h
    · cases h
    · rename_i x hx
      split at h
      · cases h
      · rename_i hown
        simp only [cellPut_eq, Host.Outcome.next.injEq] at h
        refine ⟨cell, x, hc, hx, fun hf => ?_, h.symm⟩
        simpa [hf] using hown

theorem execEdge_next {v : Word} {s t : State} (h : execEdge v s = .next t) :
    ∃ level, edgeLevel v = some level ∧
      t = { s with echoIn := level, capf := capfAfterEdge s.capf s.echoIn level s.es } := by
  unfold execEdge at h
  split at h
  · cases h
  · rename_i level hl
    simp only [Host.Outcome.next.injEq] at h
    exact ⟨level, hl, h.symm⟩

theorem execCapture_next {s t : State} (h : execCapture s = .next t) :
    s.capf = true ∧ s.capie = true ∧ s.ie = true ∧ t = captureHandler s := by
  unfold execCapture at h
  split at h
  · rename_i he
    simp only [captureEnabled, Bool.and_eq_true] at he
    simp only [Host.Outcome.next.injEq] at h
    exact ⟨he.1.1, he.1.2, he.2, h.symm⟩
  · cases h

theorem execStep_next {l : BitVec 4} {s t : State} (h : execStep l s = .next t) :
    ∃ loop, LoopId.ofIndex l = some loop ∧ s.fatalF = false ∧ t = iterate loop s := by
  unfold execStep at h
  split at h
  · cases h
  · rename_i loop hl
    split at h
    · cases h
    · rename_i hf
      simp only [Host.Outcome.next.injEq] at h
      exact ⟨loop, hl, by simpa [frozen] using hf, h.symm⟩

end Sys2Proof.Machine
end

