-- ==== Sys2Proof/Laws/Step.lean ====
section
/-! SUPPORT. What a top-level operation and a step can do, said once. -/

namespace Sys2Proof.Machine

open Sys2Proof

/-- Everything a top-level operation can leave (R9's operations, each with its condition). -/
theorem exec_opw_next_cases {i : Instr} {s t : State} (hi : i.format = .opw)
    (h : exec i s = .next t) :
    (i = .reset ∧ t = doReset s) ∨
    (∃ n, i = .tick n ∧ s.armed = true ∧
      t = { s with tcnt := BitVec.ofNat 16 (s.tcnt.toNat + n.toNat) }) ∨
    (∃ n, i = .tick n ∧ s.armed = false ∧ t = s) ∨
    (∃ v level, i = .edge v ∧ edgeLevel v = some level ∧
      t = { s with echoIn := level, capf := capfAfterEdge s.capf s.echoIn level s.es }) ∨
    (i = .quantum ∧ t = quantum s) ∨
    (∃ c cell, i = .get c ∧ CellId.ofIndex c = some cell ∧
      t = { s with result := some (ext16 cell (readCell cell s)) }) ∨
    (∃ c v cell x, i = .put c v ∧ CellId.ofIndex c = some cell ∧ putValue cell v = some x ∧
      (s.extWritesOnlyCmd = true → cell = .driveCmd) ∧ t = writeCell cell x s) ∨
    (i = .dispatch ∧ t = s) ∨
    (∃ l, (i = .dispatch ∨ i = .step l.index) ∧ s.fatalF = false ∧ t = iterate l s) ∨
    (i = .capture ∧ s.capf = true ∧ s.capie = true ∧ s.ie = true ∧ t = captureHandler s) := by
  cases i with
  | reset =>
    simp only [exec, execReset, Host.Outcome.next.injEq] at h
    exact .inl ⟨rfl, h.symm⟩
  | tick n =>
    simp only [exec, execTick, tickCount, Host.Outcome.next.injEq] at h
    cases ha : s.armed <;> simp only [ha, if_true, if_false, Bool.false_eq_true] at h
    · exact .inr (.inr (.inl ⟨n, rfl, rfl, h.symm⟩))
    · exact .inr (.inl ⟨n, rfl, rfl, h.symm⟩)
  | edge v =>
    obtain ⟨level, hl, rfl⟩ := execEdge_next h
    exact .inr (.inr (.inr (.inl ⟨v, level, rfl, hl, rfl⟩)))
  | quantum =>
    simp only [exec, execQuantum, Host.Outcome.next.injEq] at h
    exact .inr (.inr (.inr (.inr (.inl ⟨rfl, h.symm⟩))))
  | get c =>
    obtain ⟨cell, hc, rfl⟩ := execGet_next h
    exact .inr (.inr (.inr (.inr (.inr (.inl ⟨c, cell, rfl, hc, rfl⟩)))))
  | put c v =>
    obtain ⟨cell, x, hc, hx, hown, rfl⟩ := execPut_next h
    exact .inr (.inr (.inr (.inr (.inr (.inr (.inl ⟨c, v, cell, x, rfl, hc, hx, hown, rfl⟩))))))
  | getIsr c =>
    simp only [exec, execGetIsr] at h
    split at h <;> cases h
  | putIsr c v =>
    simp only [exec, execPutIsr] at h
    split at h <;> cases h
  | dispatch =>
    simp only [exec, execDispatch, Host.Outcome.next.injEq] at h
    rcases dispatch_cases s with ⟨_, e⟩ | ⟨_, _, e⟩ | ⟨l, hf, _, _, e⟩ <;> rw [e] at h
    · exact .inr (.inr (.inr (.inr (.inr (.inr (.inr (.inl ⟨rfl, h.symm⟩)))))))
    · exact .inr (.inr (.inr (.inr (.inr (.inr (.inr (.inl ⟨rfl, h.symm⟩)))))))
    · exact .inr (.inr (.inr (.inr (.inr (.inr (.inr (.inr
        (.inl ⟨l, .inl rfl, hf, h.symm⟩))))))))
  | step n =>
    obtain ⟨l, hl, hf, rfl⟩ := execStep_next h
    rcases LoopId.ofIndex_cases n with ⟨m, e, e2, _⟩ | ⟨e, _⟩ <;> rw [e] at hl <;> cases hl
    subst e2
    exact .inr (.inr (.inr (.inr (.inr (.inr (.inr (.inr (.inl ⟨_, .inr rfl, hf, rfl⟩))))))))
  | capture =>
    obtain ⟨h1, h2, h3, rfl⟩ := execCapture_next h
    exact .inr (.inr (.inr (.inr (.inr (.inr (.inr (.inr (.inr ⟨rfl, h1, h2, h3, rfl⟩))))))))
  | echoSetup | echoRun | carInit | carDriving | carStopped | carAvoid | motorSetup | motorRun
  | steerSetup | steerRun | fatal | captureRise | captureFall => simp [Instr.format] at hi

theorem fixedZero_eq_ok {zero : Bool} {i j : Instr} :
    fixedZero zero i = .ok j ↔ zero = true ∧ i = j := by
  cases zero <;> simp [fixedZero]

/-- What an operation word is read as is a top-level operation. -/
theorem format_of_decodeOpw {w : OpWord} {i : Instr} (h : decode (.opw w) = .ok i) :
    i.format = .opw := by
  simp only [decode, decodeOpw] at h
  split at h
  all_goals first
    | (rw [fixedZero_eq_ok] at h; obtain ⟨_, rfl⟩ := h; rfl)
    | cases h

/-- A step that goes on took a word, read it as a top-level operation and applied it. -/
theorem step_next {s t : State} (h : step s = .next t) :
    ∃ w rest i, s.trace = w :: rest ∧ decode (.opw w) = .ok i ∧ i.format = .opw ∧
      exec i (takeWord rest s) = .next t := by
  unfold step at h
  split at h
  · cases h
  · rename_i w rest hs
    split at h
    · cases h
    · rename_i i hi
      exact ⟨w, rest, i, hs, hi, format_of_decodeOpw hi, h⟩

/-- What every step keeps, every run keeps. -/
theorem run_keeps {P : State → Prop} (hstep : ∀ s t, P s → step s = .next t → P t) :
    ∀ (k : Nat) (s t : State), P s → Host.Core.run Sys2Proof.core k s = .next t → P t
  | 0, s, t, hs, h => by
    cases h
    exact hs
  | k + 1, s, t, hs, h => by
    simp only [Host.Core.run] at h
    split at h
    · rename_i u hu
      exact run_keeps hstep k u t (hstep s u hs hu) h
    · cases h
    · cases h

/-- Nothing that runs inside one step writes the words still to come. -/
theorem exec_opw_trace {i : Instr} {s t : State} (hi : i.format = .opw) (h : exec i s = .next t) :
    t.trace = s.trace := by
  rcases exec_opw_next_cases hi h with
    ⟨_, rfl⟩ | ⟨_, _, _, rfl⟩ | ⟨_, _, _, rfl⟩ | ⟨_, _, _, _, rfl⟩ | ⟨_, rfl⟩ |
    ⟨_, _, _, _, rfl⟩ | ⟨_, _, cell, _, _, _, _, _, rfl⟩ | ⟨_, rfl⟩ | ⟨l, _, _, rfl⟩ |
    ⟨_, _, _, _, rfl⟩
  any_goals rfl
  · rcases quantum_cases s with ⟨_, e⟩ | ⟨_, _, e⟩ | ⟨_, _, e⟩ <;> simp [e]
  · cases cell <;> rfl
  · rcases iterate_cases l s with ⟨_, e⟩ | ⟨_, e⟩ <;> simp [e, setWake, (body_keeps l s).2.2.1]
  · rcases captureHandler_cases s with ⟨_, e⟩ | ⟨_, e⟩ <;> simp [e]

/-- A step that goes on takes exactly the first word of the trace. -/
theorem step_trace {s t : State} (h : step s = .next t) : ∃ w, s.trace = w :: t.trace := by
  obtain ⟨w, rest, i, hs, _, hi, he⟩ := step_next h
  exact ⟨w, by rw [hs, exec_opw_trace hi he]; rfl⟩

end Sys2Proof.Machine
end

