-- ==== Sys2Proof/Machine/Execution.lean ====
section
/-! DEFINITION. Executions: "a finite or infinite sequence of operations" (R9), and the fairness that a
claim about progress may assume of an infinite one (R171). They stand beside State, which holds the
words still to come of a finite trace alone (log 2). -/

namespace Sys2Proof.Machine

open Sys2Proof

/-- A trace: the operation words of a finite or infinite sequence of operations (R9). -/
inductive Trace where
  | finite (ws : List OpWord)
  | infinite (ws : Nat → OpWord)

/-- The first `k` words of an infinite sequence. -/
def takeWords : Nat → (Nat → OpWord) → List OpWord
  | 0, _ => []
  | k + 1, ws => ws 0 :: takeWords k fun n => ws (n + 1)

/-- One operation of an execution: the step on its word, with no other word waiting. -/
def perform (w : OpWord) (s : State) : Host.Outcome State Fault Refusal :=
  step { s with trace := [w] }

/-- A finite sequence of operations; the first refusal ends it. -/
def performAll : List OpWord → State → Host.Outcome State Fault Refusal
  | [], s => .next s
  | w :: ws, s =>
    match perform w s with
    | .next t => performAll ws t
    | .fault r => .fault r
    | .refused r => .refused r

/-- `states` are the states an infinite sequence of operations passes through from `s`. -/
def Passes (ws : Nat → OpWord) (s : State) (states : Nat → State) : Prop :=
  states 0 = s ∧ ∀ n, perform (ws n) (states n) = .next (states (n + 1))

/-- The trace is an execution of the block from `s`: no operation of it is refused (R9, R10). -/
def Trace.Executes : Trace → State → Prop
  | .finite ws, s => ∃ t, performAll ws s = .next t
  | .infinite ws, s => ∃ states, Passes ws s states

/-- The operation runs one iteration of loop `l`: `STEP` of it, or a `DISPATCH` that chooses it, in a
block that is not frozen (R163, R164). -/
def runsLoop (l : LoopId) (w : OpWord) (s : State) : Bool :=
  match decode (.opw w) with
  | .ok (.step n) => !frozen s && n == l.index
  | .ok .dispatch => !frozen s && highest (ready s) == some l
  | _ => false

/-- What a claim about progress may assume of an infinite execution (R171, R11 "only weak fairness";
log 10): `QUANTUM` occurs infinitely often, no loop stays ready for ever without running in a block
that is not frozen, and no capture stays enabled for ever without being taken. -/
def WeaklyFair (ws : Nat → OpWord) (states : Nat → State) : Prop :=
  (∀ n, ∃ m, n ≤ m ∧ decode (.opw (ws m)) = .ok .quantum) ∧
  (∀ (l : LoopId) (n : Nat), ∃ m, n ≤ m ∧
    (runsLoop l (ws m) (states m) = true ∨ frozen (states m) = true ∨
      (states m).wake.get l ≠ 0#16)) ∧
  ∀ n, ∃ m, n ≤ m ∧
    (decode (.opw (ws m)) = .ok .capture ∨ captureEnabled (states m) = false)

end Sys2Proof.Machine
end

