-- ==== Sys2Proof/Laws/Execution.lean ====
section
/-! SUPPORT. Executions, finite and infinite, are runs of the step; where the watchdog acts. -/

namespace Sys2Proof.Machine

open Sys2Proof

/-! ### No operation looks at the words still to come -/

theorem body_withTrace (l : LoopId) (s : State) (tr : List OpWord) :
    body l { s with trace := tr } = ((body l s).1, { (body l s).2 with trace := tr }) := by
  cases l
  · simp only [body_echo]; repeat' split
    all_goals rfl
  · simp only [body_car, carInit, carDriving, carStopped, carAvoid, carStep_eq, enterCar_eq]
    repeat' split
    all_goals rfl
  · simp only [body_motor]; repeat' split
    all_goals rfl
  · simp only [body_steer]; repeat' split
    all_goals rfl

theorem iterate_withTrace (l : LoopId) (s : State) (tr : List OpWord) :
    iterate l { s with trace := tr } = { iterate l s with trace := tr } := by
  simp only [iterate, body_withTrace]
  split <;> rfl

theorem dispatch_withTrace (s : State) (tr : List OpWord) :
    dispatch { s with trace := tr } = { dispatch s with trace := tr } := by
  rcases dispatch_cases s with ⟨hf, e⟩ | ⟨hf, hw, e⟩ | ⟨l, hf, hl, hmax, e⟩ <;> rw [e]
  · rcases dispatch_cases { s with trace := tr } with ⟨_, e'⟩ | ⟨_, _, e'⟩ | ⟨_, hf', _⟩
    · exact e'
    · exact e'
    · simp [hf] at hf'
  · rcases dispatch_cases { s with trace := tr } with ⟨_, e'⟩ | ⟨_, _, e'⟩ | ⟨l, _, hl, _⟩
    · exact e'
    · exact e'
    · exact absurd hl (hw l)
  · rw [dispatch_of_highest (s := { s with trace := tr }) hf hl hmax, iterate_withTrace]

theorem quantum_withTrace (s : State) (tr : List OpWord) :
    quantum { s with trace := tr } = { quantum s with trace := tr } := by
  simp only [quantum, watchdogTick, watchdogExpiry]
  repeat' split
  all_goals rfl

theorem captureHandler_withTrace (s : State) (tr : List OpWord) :
    captureHandler { s with trace := tr } = { captureHandler s with trace := tr } := by
  rcases captureHandler_cases s with ⟨hp, e⟩ | ⟨hp, e⟩ <;>
    rcases captureHandler_cases { s with trace := tr } with ⟨hp', e'⟩ | ⟨hp', e'⟩ <;> rw [e, e']
  · exact absurd hp hp'
  · exact absurd hp' hp

/-- A top-level operation that goes on does the same whatever words are still to come. -/
theorem exec_withTrace {i : Instr} {s t : State} (hi : i.format = .opw) (h : exec i s = .next t)
    (tr : List OpWord) : exec i { s with trace := tr } = .next { t with trace := tr } := by
  cases i with
  | reset => cases h; rfl
  | tick n => cases h; simp only [exec, execTick]; split <;> rfl
  | edge v => obtain ⟨_, hv, rfl⟩ := execEdge_next h; simp [exec, execEdge, hv]
  | quantum => cases h; simp only [exec, execQuantum, quantum_withTrace]
  | get c =>
    obtain ⟨cell, hc, rfl⟩ := execGet_next h
    cases cell <;> simp [exec, execGet, hc, readCell]
  | put c v =>
    obtain ⟨cell, x, hc, hx, hown, rfl⟩ := execPut_next h
    have hno : ¬ (s.extWritesOnlyCmd = true ∧ cell ≠ .driveCmd) := fun h => h.2 (hown h.1)
    cases cell <;> simp_all [exec, execPut, writeCell]
  | getIsr c => simp only [exec, execGetIsr] at h; split at h <;> cases h
  | putIsr c v => simp only [exec, execPutIsr] at h; split at h <;> cases h
  | dispatch => cases h; simp only [exec, execDispatch, dispatch_withTrace]
  | step n =>
    obtain ⟨l, hl, hf, rfl⟩ := execStep_next h
    rw [← iterate_withTrace]
    simp [exec, execStep, hl, frozen, hf]
  | capture =>
    obtain ⟨h1, h2, h3, rfl⟩ := execCapture_next h
    rw [← captureHandler_withTrace]
    simp [exec, execCapture, captureEnabled, h1, h2, h3]
  | echoSetup | echoRun | carInit | carDriving | carStopped | carAvoid | motorSetup | motorRun
  | steerSetup | steerRun | fatal | captureRise | captureFall => simp [Instr.format] at hi

/-! ### Agents -/

/-- Where the watchdog acts, the block restarts (R168). -/
theorem exec_of_watchdog_acts {i : Instr} {s : State} (h : Agent.wdt.actsIn i s = true) :
    i = .quantum ∧ exec i s = .next (doReset s) := by
  simp only [Agent.actsIn, Bool.and_eq_true, beq_iff_eq] at h
  obtain ⟨rfl, h⟩ := h
  exact ⟨rfl, by simp [exec, execQuantum, quantum_of_expires h]⟩

/-- In every operation some agent acts that performs it; the watchdog performs none (R9). -/
theorem agentOf_actsIn (i : Instr) (s : State) :
    (agentOf i).actsIn i s = true ∧ agentOf i ≠ .wdt := by
  cases i <;> simp [agentOf, Agent.actsIn]

/-! ### Executions -/

/-- What an operation of an execution can do: its word is read and applied, and no word is left. -/
theorem perform_next {w : OpWord} {s t : State} (h : perform w s = .next t) :
    ∃ i, decode (.opw w) = .ok i ∧ i.format = .opw ∧ exec i (takeWord [] s) = .next t ∧
      t.trace = [] := by
  obtain ⟨v, rest, i, hs, hd, hi, he⟩ := step_next h
  cases hs
  exact ⟨i, hd, hi, he, exec_opw_trace hi he⟩

/-- The step on the first of several words is the operation of an execution, the others kept. -/
theorem step_of_perform {w : OpWord} {s t : State} (h : perform w s = .next t)
    (rest : List OpWord) :
    step { s with trace := w :: rest } = .next { t with trace := rest } := by
  obtain ⟨i, hd, hi, he, _⟩ := perform_next h
  have := exec_withTrace hi he rest
  simpa [step, hd, takeWord] using this

/-- Every prefix of an infinite execution is a run of the machine on the prefix as its trace. -/
theorem run_of_passes (k : Nat) : ∀ {ws : Nat → OpWord} {s : State} {states : Nat → State},
    Passes ws s states →
    Host.Core.run Sys2Proof.core k { s with trace := takeWords k ws } =
      .next { states k with trace := [] } := by
  induction k with
  | zero => intro ws s states h; rw [← h.1]; rfl
  | succ k ih =>
    intro ws s states h
    have h0 := step_of_perform (h.1 ▸ h.2 0) (takeWords k fun n => ws (n + 1))
    have := ih (ws := fun n => ws (n + 1)) (states := fun n => states (n + 1))
      ⟨rfl, fun n => h.2 (n + 1)⟩
    simp only [Host.Core.run, takeWords]
    rw [show Sys2Proof.core.step = step from rfl, h0]
    exact this

/-- A prefix of an infinite execution leads to the state it passes through there. -/
theorem performAll_of_passes (k : Nat) : ∀ {ws : Nat → OpWord} {s : State} {states : Nat → State},
    Passes ws s states → performAll (takeWords k ws) s = .next (states k) := by
  induction k with
  | zero => intro ws s states h; rw [← h.1]; rfl
  | succ k ih =>
    intro ws s states h
    have h0 : perform (ws 0) s = .next (states 1) := h.1 ▸ h.2 0
    simp only [takeWords, performAll, h0]
    exact ih (states := fun n => states (n + 1)) ⟨rfl, fun n => h.2 (n + 1)⟩

/-- The last operation of a prefix is applied to what the operations before it leave. -/
theorem performAll_takeWords_succ (k : Nat) : ∀ (ws : Nat → OpWord) (s : State),
    performAll (takeWords (k + 1) ws) s =
      match performAll (takeWords k ws) s with
      | .next t => perform (ws k) t
      | .fault r => .fault r
      | .refused r => .refused r := by
  induction k with
  | zero =>
    intro ws s
    simp only [takeWords, performAll]
    cases perform (ws 0) s <;> rfl
  | succ k ih =>
    intro ws s
    have head : ∀ j, performAll (takeWords (j + 1) ws) s =
        match perform (ws 0) s with
        | .next t => performAll (takeWords j fun n => ws (n + 1)) t
        | .fault r => .fault r
        | .refused r => .refused r := fun _ => rfl
    rw [head (k + 1), head k]
    cases perform (ws 0) s with
    | next t => exact ih (fun n => ws (n + 1)) t
    | fault r => rfl
    | refused r => rfl

/-- An infinite trace is an execution exactly when each of its finite prefixes is (R9). -/
theorem executes_infinite_iff (ws : Nat → OpWord) (s : State) :
    (Trace.infinite ws).Executes s ↔ ∀ k, (Trace.finite (takeWords k ws)).Executes s := by
  constructor
  · rintro ⟨states, h⟩ k
    exact ⟨states k, performAll_of_passes k h⟩
  · intro h
    choose states hstates using h
    refine ⟨states, ?_, fun n => ?_⟩
    · have := hstates 0
      simpa [takeWords, performAll] using this.symm
    · have := hstates (n + 1)
      rwa [performAll_takeWords_succ, hstates n] at this

/-- What every step keeps, whatever words are still to come, every execution keeps. -/
theorem passes_keeps {P : State → Prop} (htrace : ∀ s tr, P s → P { s with trace := tr })
    (hstep : ∀ s t, P s → step s = .next t → P t) {ws : Nat → OpWord} {s : State}
    {states : Nat → State} (h : Passes ws s states) (hs : P s) : ∀ n, P (states n)
  | 0 => h.1 ▸ hs
  | n + 1 => hstep _ _ (htrace _ _ (passes_keeps htrace hstep h hs n)) (h.2 n)

end Sys2Proof.Machine
end

