-- ==== Sys2Proof/Laws/PerInstr.lean ====
section
/-! SUPPORT. A statement for all instructions, made per instruction: the encoder writes each one in
the format its row belongs to (R80), at that format's length (R93). -/

namespace Sys2Proof.Laws.EncodedWidth

open Sys2Proof

/-- The instruction's word has the length of the instruction's format. -/
def Statement (i : Instr) : Prop := (encode i).bits = i.format.bits

theorem reset : Statement .reset := rfl
theorem tick (n : Word) : Statement (.tick n) := rfl
theorem edge (v : Word) : Statement (.edge v) := rfl
theorem quantum : Statement .quantum := rfl
theorem get (c : BitVec 4) : Statement (.get c) := rfl
theorem put (c : BitVec 4) (v : Word) : Statement (.put c v) := rfl
theorem getIsr (c : BitVec 4) : Statement (.getIsr c) := rfl
theorem putIsr (c : BitVec 4) (v : Word) : Statement (.putIsr c v) := rfl
theorem dispatch : Statement .dispatch := rfl
theorem step (l : BitVec 4) : Statement (.step l) := rfl
theorem capture : Statement .capture := rfl
theorem echoSetup : Statement .echoSetup := rfl
theorem echoRun : Statement .echoRun := rfl
theorem carInit : Statement .carInit := rfl
theorem carDriving : Statement .carDriving := rfl
theorem carStopped : Statement .carStopped := rfl
theorem carAvoid : Statement .carAvoid := rfl
theorem motorSetup : Statement .motorSetup := rfl
theorem motorRun : Statement .motorRun := rfl
theorem steerSetup : Statement .steerSetup := rfl
theorem steerRun : Statement .steerRun := rfl
theorem fatal (l : LoopId) (state : Byte) : Statement (.fatal l state) := rfl
theorem captureRise : Statement .captureRise := rfl
theorem captureFall : Statement .captureFall := rfl

end Sys2Proof.Laws.EncodedWidth
end

