-- ==== Sys2Proof/Tests/Slice0.lean ====
section
/-! SUPPORT. Tests: ill-formed operands, words written out from the spec's encodings, one or two steps
per instruction from 95_test_vectors.md, and for every obligation with hypotheses a state and operands
that meet them. -/

namespace Sys2Proof.Tests

open Sys2Proof Sys2Proof.Machine

/-! ### Helpers -/

/-- The test configuration `TC` of R8, with the seed given. -/
def tc (seed : Bool) : Config where
  phaseSeed := seed
  avoidMotorClose := 0
  avoidMotorClear := 0
  motorFwd := ⟨99⟩
  steerDeflect := ⟨99⟩
  pwInit := 0
  period := { echo := ⟨49⟩, car := ⟨9⟩, motor := ⟨0⟩, steer := ⟨0⟩ }
  wdtTimeout := ⟨1⟩
  prescaler := ⟨0⟩
  distNum := ⟨0⟩
  distDen := ⟨0⟩

/-- `TC` as numbers (R8). -/
def tcRaw : RawConfig where
  phaseSeed := 0
  avoidMotorClose := 0
  avoidMotorClear := 0
  motorFwd := 100
  steerDeflect := 100
  pwInit := 0
  period := { echo := 50, car := 10, motor := 1, steer := 1 }
  wdtTimeout := 2
  prescaler := 1
  distNum := 1
  distDen := 1

/-- The reset state of 95_test_vectors.md. -/
def rst : State := State.powerOn (tc false)

/-- The armed state of 95_test_vectors.md. -/
def armed : State :=
  { rst with
    es := true, capie := true, armed := true, trig := true
    st := { rst.st with echo := 1 }, wake := { rst.wake with echo := 50 } }

/-- The armed state with a pending capture, in phase `ph` with the count `t`. -/
def pending (ph : Byte) (t : Word) : State :=
  { armed with capf := true, tcnt := t, cells := { rst.cells with edgePhase := ph } }

/-- The start states of 95_test_vectors.md section 2.6. -/
def carAt (st cmd : Byte) (pw : Word) : State :=
  { rst with
    st := { rst.st with car := st }
    cells :=
      { rst.cells with driveCmd := cmd, pulseWidth := pw, motorSp := 55, steerSp := 0xFFC9 } }

/-- A frozen state with `n` quanta to go. -/
def frozenAt (n : Word) : State := { rst with fatalF := true, wdtArmed := true, wdtCnt := n }

/-- The next state of an instruction, if there is one. -/
def after (i : Instr) (s : State) : Option State :=
  match exec i s with
  | .next t => some t
  | .fault _ | .refused _ => none

/-- Why an instruction is refused, if it is. -/
def why (i : Instr) (s : State) : Option Refusal :=
  match exec i s with
  | .refused r => some r
  | .next _ | .fault _ => none

/-- What a step on the word `w` leaves. -/
def stepOn (w : OpWord) (s : State) : Option State :=
  match step { s with trace := [w] } with
  | .next t => some t
  | .fault _ | .refused _ => none

/-- Why a step on the word `w` is refused. -/
def stepWhy (w : OpWord) (s : State) : Option Refusal :=
  match step { s with trace := [w] } with
  | .refused r => some r
  | .next _ | .fault _ => none

/-- The next state of a list of operations, if there is one. -/
def afterAll (is : List Instr) (s : State) : Option State :=
  match applyAll is s with
  | .next t => some t
  | .fault _ | .refused _ => none

/-- What a CAR iteration shows: the state and the two setpoints. -/
def carView (s : State) : Byte × Word × Word := (s.st.car, s.cells.motorSp, s.cells.steerSp)

/-! ### WellFormed: each check refuses an ill-formed term -/

theorem test_wf_edge : (Instr.edge 2).wf = false := by decide
theorem test_wf_get : (Instr.get 5).wf = false := by decide
theorem test_wf_put_index : (Instr.put 5 0).wf = false := by decide
theorem test_wf_put_value : (Instr.put 2 256).wf = false := by decide
theorem test_wf_put_wide : (Instr.put 1 256).wf = true := by decide
theorem test_wf_getIsr : (Instr.getIsr 5).wf = false := by decide
theorem test_wf_putIsr : (Instr.putIsr 9 0).wf = false := by decide
theorem test_wf_step : (Instr.step 4).wf = false := by decide
theorem test_wf_fatal : (Instr.fatal .echo 1).wf = false := by decide

/-! ### The configuration (R8, U14) -/

theorem test_config_tc : tcRaw.check = some (tc false) := by decide
theorem test_config_reference :
    isReference (tc true) = true ∧ isReference (tc false) = false := by decide
theorem test_config_period :
    { tcRaw with period := { tcRaw.period with motor := 0 } }.check = none := by decide
theorem test_config_timeout : { tcRaw with wdtTimeout := 0 }.check = none := by decide
theorem test_config_motor : { tcRaw with motorFwd := 0 }.check = none := by decide
theorem test_config_deflect : { tcRaw with steerDeflect := 0 }.check = none := by decide
theorem test_config_denominator : { tcRaw with distDen := 0 }.check = none := by decide

/-! ### Words written out from R81, R83 to R85 -/

theorem test_dec_reset : decodeTableWord 32 0x00000000 = some .reset := by decide
theorem test_dec_tick : decodeTableWord 32 0x0100FFFF = some (.tick 65535) := by decide
theorem test_dec_edge : decodeTableWord 32 0x02000001 = some (.edge 1) := by decide
theorem test_dec_quantum : decodeTableWord 32 0x03000000 = some .quantum := by decide
theorem test_dec_get : decodeTableWord 32 0x10300000 = some (.get 3) := by decide
theorem test_dec_put : decodeTableWord 32 0x1130FF9C = some (.put 3 0xFF9C) := by decide
theorem test_dec_getIsr : decodeTableWord 32 0x12500000 = some (.getIsr 5) := by decide
theorem test_dec_putIsr : decodeTableWord 32 0x1310012C = some (.putIsr 1 300) := by decide
theorem test_dec_dispatch : decodeTableWord 32 0x20000000 = some .dispatch := by decide
theorem test_dec_step : decodeTableWord 32 0x21300000 = some (.step 3) := by decide
theorem test_dec_capture : decodeTableWord 32 0x30000000 = some .capture := by decide
theorem test_dec_echoSetup : decodeTableWord 16 0x0000 = some .echoSetup := by decide
theorem test_dec_echoRun : decodeTableWord 16 0x0001 = some .echoRun := by decide
theorem test_dec_carInit : decodeTableWord 16 0x0100 = some .carInit := by decide
theorem test_dec_carDriving : decodeTableWord 16 0x0101 = some .carDriving := by decide
theorem test_dec_carStopped : decodeTableWord 16 0x0102 = some .carStopped := by decide
theorem test_dec_carAvoid : decodeTableWord 16 0x0103 = some .carAvoid := by decide
theorem test_dec_motorSetup : decodeTableWord 16 0x0200 = some .motorSetup := by decide
theorem test_dec_motorRun : decodeTableWord 16 0x0201 = some .motorRun := by decide
theorem test_dec_steerSetup : decodeTableWord 16 0x0300 = some .steerSetup := by decide
theorem test_dec_steerRun : decodeTableWord 16 0x0301 = some .steerRun := by decide
theorem test_dec_fatal : decodeTableWord 16 0x0107 = some (.fatal .car 7) := by decide
theorem test_dec_captureRise : decodeTableWord 8 0x00 = some .captureRise := by decide
theorem test_dec_captureFall : decodeTableWord 8 0x05 = some .captureFall := by decide

/-- The reserved words of 95_test_vectors.md section 2.1. -/
theorem test_dec_reserved :
    [0x40000000, 0x04000000, 0x14000000, 0x22000000, 0x31000000, 0x00010000, 0x00100000,
      0x00000001, 0x03000001, 0x20100000, 0x30000001, 0x10000001, 0x21000001].all
      (fun w => (decodeTableWord 32 w).isNone) = true := by decide

theorem test_dec_no_such_loop :
    decodeTableWord 16 0x0400 = none ∧ decodeTableWord 16 0x1000 = none ∧
    decodeTableWord 24 0 = none := by decide

/-! ### One step of each instruction (95_test_vectors.md) -/

/-- Section 2.8. -/
theorem test_reset :
    after .reset
      { armed with
        echoIn := true, fatalF := true
        cells := { edgePhase := 1, pulseWidth := 300, driveCmd := 2, motorSp := 5, steerSp := 6 }
        diag := [.illegalState .car 7] } =
      some { rst with echoIn := true, diag := [.illegalState .car 7] } := by decide

/-- Section 2.3. -/
theorem test_tick_wraps :
    (after (.tick 1000) { armed with tcnt := 65000 }).map (·.tcnt) = some 464 := by decide
theorem test_tick_unarmed : after (.tick 100) rst = some rst := by decide
theorem test_edge_other_sense : after (.edge 1) rst = some { rst with echoIn := true } := by decide
theorem test_edge_before_setup :
    after (.edge 0) { rst with echoIn := true } = some { rst with capf := true } := by decide

/-- Section 2.5. -/
theorem test_quantum_saturates :
    (after .quantum { rst with wake := { echo := 0, car := 1, motor := 65535, steer := 2 } }).map
      (·.wake) = some { echo := 0, car := 0, motor := 65534, steer := 1 } := by decide
theorem test_quantum_watchdog_zero :
    after .quantum { armed with wdtArmed := true, wdtCnt := 0 } = some rst := by decide

/-- Section 2.2. -/
theorem test_get_negative :
    (after (.get 3) { rst with cells := { rst.cells with motorSp := 0xFF9C } }).map (·.result) =
      some (some 0xFF9C) := by decide
theorem test_get_pulse_width :
    (stepOn 0x10100000 { rst with cells := { rst.cells with pulseWidth := 300 } }).map (·.result) =
      some (some 0x012C) := by decide
theorem test_put_masked :
    after (.put 2 1) { rst with ie := false } =
      some { rst with ie := false, cells := { rst.cells with driveCmd := 1 } } := by decide
theorem test_put_range : why (.put 0 256) rst = some .operandRange := by decide
theorem test_getIsr_index_first : why (.getIsr 5) rst = some .badIndex := by decide
theorem test_getIsr_contract : stepWhy 0x12000000 rst = some .contractViolation := by decide
theorem test_putIsr_index_first : why (.putIsr 9 0) rst = some .badIndex := by decide
theorem test_putIsr_contract : stepWhy 0x1310012C rst = some .contractViolation := by decide

/-- Section 2.5: CAR outranks ECHO. -/
theorem test_dispatch_priority :
    (after .dispatch { rst with wake := { echo := 0, car := 0, motor := 3, steer := 3 } }).map
      (fun s => (s.st, s.wake)) =
      some ({ echo := 0, car := 2, motor := 0, steer := 0 },
        { echo := 0, car := 10, motor := 3, steer := 3 }) := by decide
theorem test_dispatch_idle :
    after .dispatch { rst with wake := { echo := 1, car := 5, motor := 3, steer := 3 } } =
      some { rst with wake := { echo := 1, car := 5, motor := 3, steer := 3 } } := by decide
theorem test_step_fatal :
    after (.step 3) { rst with st := { rst.st with steer := 255 } } =
      some { rst with
        st := { rst.st with steer := 255 }, diag := [.illegalState .steer 255]
        fatalF := true, wdtArmed := true, wdtCnt := 2 } := by decide
theorem test_step_frozen : stepWhy 0x21200000 (frozenAt 2) = some .notEnabled := by decide

/-- Section 2.4. -/
theorem test_capture_rise :
    after .capture (pending 0 37) =
      some { armed with es := false, cells := { rst.cells with edgePhase := 1 } } := by decide
theorem test_capture_fall :
    after .capture (pending 5 9) =
      some { armed with tcnt := 9, cells := { rst.cells with pulseWidth := 9 } } := by decide

/-- Section 2.3, last row, and the example of R131. -/
theorem test_echoSetup :
    after .echoSetup { rst with capf := true } = some { armed with wake := rst.wake } := by decide
theorem test_echoSetup_seed :
    (after .echoSetup (State.powerOn (tc true))).map (·.cells.edgePhase) = some 1 := by decide
theorem test_echoRun : after .echoRun armed = some { armed with trig := false } := by decide

/-- Section 2.6. -/
theorem test_carInit : (after .carInit (carAt 0 1 0)).map carView = some (2, 0, 0) := by decide
theorem test_carDriving_avoid :
    (after .carDriving (carAt 1 2 0)).map carView = some (1, 100, 0) := by decide
theorem test_carDriving_stop :
    (after .carDriving (carAt 1 0 0)).map carView = some (2, 0, 0) := by decide
theorem test_carStopped_close :
    (after .carStopped (carAt 2 2 149)).map carView = some (3, 0, 100) := by decide
theorem test_carStopped_unnamed :
    (after .carStopped (carAt 2 255 0)).map carView = some (2, 0, 0) := by decide
theorem test_carAvoid_boundary :
    (after .carAvoid (carAt 3 1 150)).map carView = some (3, 0, 0) := by decide
theorem test_carAvoid_unsigned :
    (after .carAvoid (carAt 3 255 32768)).map carView = some (3, 0, 0) := by decide

/-- Section 2.7. -/
theorem test_motorSetup :
    after .motorSetup rst = some { rst with st := { rst.st with motor := 1 } } := by decide
theorem test_motorRun :
    (after .motorRun { rst with cells := { rst.cells with motorSp := 0x8000 } }).map
      (fun s => (s.motorOut, s.steerOut)) = some (0x8000, 0) := by decide
theorem test_steerSetup :
    after .steerSetup rst = some { rst with st := { rst.st with steer := 1 } } := by decide
theorem test_steerRun :
    (after .steerRun { rst with cells := { rst.cells with steerSp := 0xFF9C } }).map
      (fun s => (s.motorOut, s.steerOut)) = some (0, 0xFF9C) := by decide

/-- The example of R166. -/
theorem test_fatal :
    after (.fatal .car 7) rst =
      some { rst with
        diag := [.illegalState .car 7], fatalF := true, wdtArmed := true, wdtCnt := 2 } := by decide

/-- The examples of R136 and R137. -/
theorem test_captureRise :
    (after .captureRise (pending 0 37)).map (fun s => (s.tcnt, s.es, s.cells.edgePhase)) =
      some (0, false, 1) := by decide
theorem test_captureFall :
    (after .captureFall (pending 1 300)).map (fun s => (s.tcnt, s.es, s.cells.pulseWidth)) =
      some (300, true, 300) := by decide

/-! ### The rest of the definitions -/

/-- A line of a trace (R94, R95): a pseudo-operation, a named cell with a negative value, a
comment. -/
theorem test_text_pulse :
    parseLine ['P', 'U', 'L', 'S', 'E', ' ', '3', '0', '0'] =
      some [.edge 1, .capture, .tick 300, .edge 0, .capture] := by decide
theorem test_text_put :
    parseLine ['P', 'U', 'T', ' ', 'S', 'T', 'E', 'E', 'R', '_', 'S', 'P', ',', ' ', '-', '1', '0',
      '0', ' ', ';', 'x'] = some [.put 4 0xFF9C] := by decide
theorem test_text_hex :
    parseLine ['T', 'I', 'C', 'K', ' ', '0', 'x', '1', '2', 'C'] = some [.tick 300] := by decide
theorem test_text_unknown : parseLine ['N', 'O', 'P'] = none := by decide

/-- 95_test_vectors.md section 2.9. -/
theorem test_distance :
    pulseDistance { tc false with distDen := ⟨57⟩ } 300 = 5 ∧
    pulseDistance { tc false with distNum := ⟨342⟩, distDen := ⟨1⟩ } 65535 = 11239252 := by decide

/-- E1 of 95_test_vectors.md: a handler that falls inside an unmasked split read tears it (R244),
inside a masked one does not (R118). -/
theorem test_split_read :
    let s := { pending 1 0x0100 with cells := { rst.cells with edgePhase := 1, pulseWidth := 0xFF } }
    (splitGet false s).1 = 0x01FF ∧ (splitGet true s).1 = 0x00FF := by decide

/-- A word placed for the next step is the word it runs (log 6). -/
theorem test_withFetchWord :
    (match step (rst.withFetchWord 16 0x0103) with
      | .next t => t.st.car == 2
      | .fault _ | .refused _ => false) = true ∧
    (match step (rst.withFetchWord 8 0x01) with
      | .next t => t.es && t.trace == []
      | .fault _ | .refused _ => false) = true := by decide

/-! ### Witnesses: the hypotheses of each obligation can be met -/

theorem witness_ResetWritesResetTable :
    ((1#4 ≠ 0#4 ∨ 0#4 ≠ 0#4 ∨ 0#16 ≠ 0#16) ∧ (0#4 ≠ 0#4 ∨ 1#4 ≠ 0#4 ∨ 0#16 ≠ 0#16)) ∧
    (0#4 ≠ 0#4 ∨ 0#4 ≠ 0#4 ∨ 1#16 ≠ 0#16) := by decide

theorem witness_SetupOrderIrrelevant :
    rst.st = { echo := 0#8, car := 0#8, motor := 0#8, steer := 0#8 } ∧ rst.fatalF = false ∧
    [Instr.step 3, .step 2, .step 1, .step 0].Perm [.step 0, .step 1, .step 2, .step 3] := by decide

theorem witness_TickAdvancesTimer :
    (0#4 ≠ 0#4 ∨ 15#4 ≠ 0#4) ∧ armed.armed = true ∧ rst.armed = false ∧
    after (.tick 65000) armed = some { armed with tcnt := 65000 } := by decide

theorem witness_TicksAccumulate :
    armed.armed = true ∧
    (afterAll ([65000#16, 1000#16].map .tick) armed).map (·.tcnt) = some 464 := by decide

theorem witness_EdgeDrivesCaptureFlag :
    (1#4 ≠ 0#4 ∨ 0#4 ≠ 0#4) ∧ 2 ≤ (2#16).toNat ∧ 2 ≤ (65535#16).toNat := by decide

theorem witness_QuantumCountsDown :
    (0#4 ≠ 0#4 ∨ 0#4 ≠ 0#4 ∨ 1#16 ≠ 0#16) ∧
    (rst.wdtArmed = false ∨ 2 ≤ rst.wdtCnt.toNat) ∧
    ((frozenAt 2).wdtArmed = false ∨ 2 ≤ (frozenAt 2).wdtCnt.toNat) ∧
    ((frozenAt 1).wdtArmed = true ∧ (frozenAt 1).wdtCnt.toNat ≤ 1) ∧
    ((frozenAt 0).wdtArmed = true ∧ (frozenAt 0).wdtCnt.toNat ≤ 1) := by decide

theorem witness_GetReturnsCell :
    (1#4 ≠ 0#4 ∨ 0#16 ≠ 0#16) ∧ 5 ≤ (5#4).toNat ∧ 5 ≤ (15#4).toNat := by decide

theorem witness_PutReplacesCell :
    1#4 ≠ 0#4 ∧ (255#16).toNat < 256 ∧ 256 ≤ (256#16).toNat ∧ rst.extWritesOnlyCmd = false ∧
    5 ≤ (5#4).toNat := by decide

theorem witness_OwnershipFlagRefusesForeignPut :
    { rst with extWritesOnlyCmd := true }.extWritesOnlyCmd = true ∧ (255#16).toNat < 256 := by decide

theorem witness_InterruptPathRefusedAtTopLevel : (4#4).toNat < 5 ∧ 5 ≤ (5#4).toNat := by decide

theorem witness_AccessorsTouchNoRegister :
    (after (.get 4) armed).isSome = true ∧ (after (.put 2 255) armed).isSome = true ∧
    CellId.index .steerSp ≠ 2#4 := by decide

theorem witness_CaptureRunsArmOfPhase :
    (1#4 ≠ 0#4 ∨ 0#4 ≠ 0#4 ∨ 0#16 ≠ 0#16) ∧
    (armed.capf = false ∨ armed.capie = false ∨ armed.ie = false) ∧
    ((pending 0 37).capf = true ∧ (pending 0 37).capie = true ∧ (pending 0 37).ie = true ∧
      (pending 0 37).cells.edgePhase = 0#8) ∧
    ((pending 1 9).capf = true ∧ (pending 1 9).capie = true ∧ (pending 1 9).ie = true ∧
      (pending 1 9).cells.edgePhase ≠ 0#8) := by decide

theorem witness_CaptureFallRecordsWidth : 1#8 ≠ 0#8 ∧ 255#8 ≠ 0#8 := by decide

theorem witness_PulseMeasuredWithLatency :
    armed.armed = true ∧ armed.capie = true ∧ armed.ie = true ∧ armed.es = true ∧
    armed.cells.edgePhase = 0#8 ∧ armed.echoIn = false ∧
    (afterAll ([.edge 1] ++ [5#16].map .tick ++ [.capture] ++ [295#16].map .tick ++ [.edge 0] ++
      [7#16].map .tick ++ [.capture]) armed).map (·.cells.pulseWidth) = some 302 := by decide

theorem witness_SeedDecidesFirstMeasurement :
    (rst.st.echo = 0#8 ∧ rst.fatalF = false ∧ rst.ie = true ∧ rst.echoIn = false ∧
      rst.tcnt = 0#16 ∧ rst.cfg.phaseSeed = false) ∧
    (State.powerOn (tc true)).cfg.phaseSeed = true ∧ (State.powerOn (tc true)).st.echo = 0#8 ∧
    (State.powerOn (tc true)).fatalF = false ∧ (State.powerOn (tc true)).ie = true ∧
    (State.powerOn (tc true)).echoIn = false ∧ (State.powerOn (tc true)).tcnt = 0#16 := by decide

theorem witness_EdgesWhilePendingAreOneInterrupt : (pending 0 0).capf = true := by decide

theorem witness_EchoRunTogglesTrigger :
    after .echoRun rst = some { rst with trig := true } := by decide

theorem witness_CarStoppedObeysCommand :
    (carAt 2 1 0).cells.driveCmd = 1#8 ∧ (carAt 2 2 150).cells.driveCmd = 2#8 ∧
    ((carAt 2 0 0).cells.driveCmd ≠ 1#8 ∧ (carAt 2 0 0).cells.driveCmd ≠ 2#8) ∧
    ((carAt 2 3 0).cells.driveCmd ≠ 1#8 ∧ (carAt 2 3 0).cells.driveCmd ≠ 2#8) := by decide

theorem witness_CarDrivingStopsOnZero :
    (carAt 1 0 0).cells.driveCmd = 0#8 ∧ (carAt 1 1 0).cells.driveCmd ≠ 0#8 := by decide

theorem witness_CarAvoidComparesWidth :
    (carAt 3 0 0).cells.driveCmd = 0#8 ∧
    ((carAt 3 1 149).cells.driveCmd ≠ 0#8 ∧ (carAt 3 1 149).cells.pulseWidth.toNat ≤ 149) ∧
    ((carAt 3 255 150).cells.driveCmd ≠ 0#8 ∧ 150 ≤ (carAt 3 255 150).cells.pulseWidth.toNat) := by
  decide

theorem witness_CarTransitionTable :
    rst.fatalF = false ∧ (carAt 0 0 0).st.car = 0#8 ∧
    ((carAt 2 1 0).st.car = 2#8 ∧ (carAt 2 1 0).cells.driveCmd = 1#8) ∧
    ((carAt 2 2 149).cells.driveCmd = 2#8 ∧ (carAt 2 2 149).cells.pulseWidth.toNat < 150) ∧
    ((carAt 2 2 150).cells.driveCmd = 2#8 ∧ 150 ≤ (carAt 2 2 150).cells.pulseWidth.toNat) ∧
    ((carAt 2 3 0).cells.driveCmd = 0#8 ∨ 3 ≤ (carAt 2 3 0).cells.driveCmd.toNat) ∧
    ((carAt 1 0 0).st.car = 1#8 ∧ (carAt 1 0 0).cells.driveCmd = 0#8) ∧
    ((carAt 1 1 0).st.car = 1#8 ∧ 1 ≤ (carAt 1 1 0).cells.driveCmd.toNat) ∧
    ((carAt 3 0 0).st.car = 3#8 ∧ (carAt 3 0 0).cells.driveCmd = 0#8) ∧
    ((carAt 3 1 149).st.car = 3#8 ∧ 1 ≤ (carAt 3 1 149).cells.driveCmd.toNat ∧
      (carAt 3 1 149).cells.pulseWidth.toNat < 150) ∧
    ((carAt 3 255 150).st.car = 3#8 ∧ 150 ≤ (carAt 3 255 150).cells.pulseWidth.toNat) ∧
    4 ≤ (carAt 4 0 0).st.car.toNat ∧ 4 ≤ (carAt 255 0 0).st.car.toNat := by decide

theorem witness_CarStepsDependOnCommandAndWidth :
    Instr.carAvoid ∈ [Instr.carInit, .carDriving, .carStopped, .carAvoid] ∧
    (carAt 3 1 149).cells.driveCmd = (carAt 0 1 149).cells.driveCmd ∧
    (carAt 3 1 149).cells.pulseWidth = (carAt 0 1 149).cells.pulseWidth ∧
    (carAt 3 1 149).cfg = (carAt 0 1 149).cfg := by decide

/-- A state from which an owner-respecting step changes the car-control state. -/
def owned : State := { rst with extWritesOnlyCmd := true, trace := [0x21100000#32] }

theorem witness_SetpointsMatchKept :
    (owned.extWritesOnlyCmd = true ∧ SetpointsMatchState owned ∧
      ∃ t, step owned = .next t ∧ t.st.car = 2#8) ∧
    let s := { owned with extWritesOnlyCmd := false }
    (∀ w ∈ s.trace.take 1, putsOnlyCmd w = true) ∧ SetpointsMatchState s ∧
      ∃ t, step s = .next t ∧ t.st.car = 2#8 :=
  ⟨⟨rfl, ⟨rfl, rfl⟩, _, rfl, rfl⟩, List.all_eq_true.1 rfl, ⟨rfl, rfl⟩, _, rfl, rfl⟩

theorem test_putsOnlyCmd :
    putsOnlyCmd 0x11200002 = true ∧ putsOnlyCmd 0x11000001 = false ∧
    putsOnlyCmd 0x03000000 = true := by decide

theorem witness_StepRunsDecodedLoopState :
    (0#4 ≠ 0#4 ∨ 1#16 ≠ 0#16) ∧ 4 ≤ (4#4).toNat ∧ (3#4).toNat < 4 ∧
    (frozenAt 2).fatalF = true ∧ rst.fatalF = false ∧
    LoopId.recognises .car ((carAt 3 0 0).st.get .car) = true ∧
    LoopId.recognises .car ((carAt 4 0 0).st.get .car) = false := by decide

/-- No loop is ready. -/
def idle : State := { rst with wake := { echo := 1, car := 1, motor := 1, steer := 1 } }

/-- ECHO and CAR are ready, CAR in the state `n`. -/
def carReady (n : Byte) : State :=
  { rst with
    st := { rst.st with car := n }, wake := { echo := 0, car := 0, motor := 1, steer := 1 } }

theorem witness_DispatchRunsHighestReady :
    (1#4 ≠ 0#4 ∨ 0#4 ≠ 0#4 ∨ 0#16 ≠ 0#16) ∧ (frozenAt 2).fatalF = true ∧
    (∀ l ∈ LoopId.all, idle.wake.get l ≠ 0#16) ∧
    (carReady 0).fatalF = false ∧ (carReady 0).wake.get .car = 0#16 ∧
    (∀ m ∈ LoopId.all, (carReady 0).wake.get m = 0#16 → LoopId.prio m ≤ LoopId.prio .car) ∧
    LoopId.recognises .car ((carReady 0).st.get .car) = true ∧
    LoopId.recognises .car ((carReady 4).st.get .car) = false := by decide

theorem witness_FatalLogsArmsAndFreezes :
    LoopId.recognises .car 4 = false ∧ LoopId.recognises .echo 2 = false ∧
    LoopId.recognises .motor 255 = false := by decide

theorem witness_FrozenBlockRunsNoLoop :
    (frozenAt 2).fatalF = true ∧ Instr.quantum.format = .opw ∧ Instr.quantum ≠ .dispatch ∧
    (after .quantum (frozenAt 2)).map (·.fatalF) = some true ∧
    (after .quantum (frozenAt 1)).map (·.fatalF) = some false ∧
    (after .reset (frozenAt 2)).map (·.fatalF) = some false := by decide

theorem witness_WatchdogRestartsAfterTimeout :
    ∃ s, exec (.fatal .car 7) rst = .next s ∧ 1 < s.cfg.wdtTimeout.val.toNat :=
  ⟨_, rfl, by decide⟩

theorem witness_WatchdogCoherenceKept :
    WatchdogCoherent (frozenAt 2) ∧
    (stepOn 0x03000000 (frozenAt 2)).map (·.wdtCnt) = some 1 := by decide

theorem witness_RunAllServesEveryReadyLoop :
    armed.fatalF = false ∧ RecognisedStates armed ∧
    (∀ l ∈ LoopId.all, l ∈ [LoopId.motor, .steer, .car] ↔ armed.wake.get l = 0#16) ∧
    [LoopId.motor, .steer, .car].Pairwise (fun l m => LoopId.prio m < LoopId.prio l) ∧
    (afterAll (Pseudo.expand .runAll) armed).isSome = true := by decide

theorem witness_LoopReadyAfterItsPeriod :
    rst.wdtArmed = false ∧ LoopId.recognises .car (rst.st.get .car) = true ∧
    (after (.step (LoopId.index .car)) rst).map (·.wake.car) = some 10 := by decide

theorem witness_OpcodeMapSelectsRows :
    opwRows[5]? = some (0x11000000#32, 0xFF0F0000#32) ∧
    selects 0x11200002 (0x11000000#32, 0xFF0F0000#32) = true ∧ 5 ≤ (5#4).toNat ∧
    4 ≤ (4#4).toNat ∧ 2 ≤ (2#16).toNat ∧ 256 ≤ (256#16).toNat := by decide

theorem witness_ReservedWordsRefused :
    (opwRows.all fun row => !selects 0x40000000 row) = true := by decide

theorem witness_LoopStateWordMap :
    0x0002#16 = LoopStateWord.form .echo 2 ∧
    0x0002#16 ∉ [0x0000#16, 0x0001#16, 0x0100#16, 0x0101#16, 0x0102#16, 0x0103#16, 0x0200#16,
      0x0201#16, 0x0300#16, 0x0301#16] := by decide

theorem witness_DecodeEncodeRoundTrip :
    (Instr.put 2 255).wf = true ∧ (Instr.fatal .car 4).wf = true ∧ Instr.captureFall.wf = true := by
  decide

theorem witness_EncodeDecodeRoundTrip :
    decodeTableWord 32 0x11200002 = some (.put 2 2) ∧
    decodeTableWord 16 0x03FF = some (.fatal .steer 255) := by decide

theorem witness_StepRunsDecodedInstruction :
    owned.trace = [0x21100000#32] ∧ decode (.opw 0x21100000#32) = .ok (.step 1) ∧
    rst.trace = [] := ⟨rfl, rfl, rfl⟩

theorem witness_OutcomeOfEveryWord :
    rst.extWritesOnlyCmd = false ∧ decode (.opw 0x40000000#32) = .error .reservedEncoding ∧
    firstRefusal (.getIsr 5) rst = some .badIndex ∧
    firstRefusal (.getIsr 0) rst = some .contractViolation ∧
    firstRefusal (.put 2 256) rst = some .operandRange ∧
    firstRefusal .capture rst = some .notEnabled ∧ firstRefusal (.put 2 255) rst = none :=
  ⟨rfl, rfl, rfl, rfl, rfl, rfl, rfl⟩

theorem witness_ResultExactlyAfterGet :
    (stepOn 0x10100000 rst).map (·.result) = some (some 0) ∧
    (stepOn 0x11200001 { rst with result := some 5 }).map (·.result) = some none := by decide

theorem witness_RunOfTraceAppliesOperations :
    ([Instr.edge 1, .capture, .get 1].all fun i => i.format == .opw) = true := by decide

/-- A capture is pending and is the next operation, the flag of U4 as given. -/
def capturing (flag : Bool) : State :=
  { pending 0 37 with extWritesOnlyCmd := flag, trace := [0x30000000#32] }

theorem witness_InvariantsKept :
    (capturing true).extWritesOnlyCmd = true ∧ Invariant47 (capturing true) ∧
    (capturing false).trace.take 1 = [0x30000000#32] ∧ putsOnlyCmd 0x30000000#32 = true ∧
    Invariant47 (capturing false) ∧ (capturing false).armed = true ∧
    SenseComplementsPhase (capturing false) ∧
    (stepOn 0x30000000 (capturing false)).map (fun t => (t.armed, t.cells.edgePhase)) =
      some (true, 1) :=
  ⟨rfl, by decide, rfl, rfl, by decide, rfl, by decide, by decide⟩

theorem witness_InvariantsHoldOnEveryRun :
    let ws := [0x11200001#32, 0x20000000#32, 0x03000000#32]
    (∀ w ∈ ws, putsOnlyCmd w = true) ∧
    (∃ t, Host.Core.run Sys2Proof.core 3 { State.reset with trace := ws } = .next t ∧
      t.cells.driveCmd = 1#8 ∧ t.st.motor = 1#8) ∧
    Invariant47 owned ∧ SetpointsMatchState owned ∧ owned.extWritesOnlyCmd = true ∧
    ∃ t, Host.Core.run Sys2Proof.core 1 owned = .next t ∧ t.st.car = 2#8 :=
  ⟨List.all_eq_true.1 rfl, ⟨_, rfl, rfl, rfl⟩, by decide, ⟨rfl, rfl⟩, rfl, _, rfl, rfl⟩

theorem witness_DiagAppendOnly :
    Instr.dispatch.format = .opw ∧
    (after .dispatch { carAt 7 0 0 with wake := { echo := 1, car := 0, motor := 1, steer := 1 } }).map
      (·.diag) = some [.illegalState .car 7] := by decide

theorem witness_RegistersWrittenByTheirRows :
    (after .capture (pending 0 37)).map (fun t => RegId.tcnt.read t) = some 0 ∧
    RegId.tcnt.read (pending 0 37) = 37 := by decide

theorem witness_ConfigurationNeverWritten :
    (after .reset armed).isSome = true ∧ (after .carStopped (carAt 2 2 0)).isSome = true := by decide

theorem witness_PulseWidthIsOneWholeWrite :
    (after .capture (pending 1 300)).map (·.cells.pulseWidth) = some 300 ∧
    (after (.put 1 77) rst).map (·.cells.pulseWidth) = some 77 := by decide

theorem witness_NoCaptureLeavesWidthStale :
    let is := [Instr.tick 3, .edge 1, .dispatch]
    let js := [Instr.quantum, .dispatch, .quantum]
    (∀ i ∈ is ++ js, i ≠ .capture ∧ i ≠ .captureFall ∧ i ≠ .reset ∧ ∀ v, i ≠ .put 1 v) ∧
    (∀ i ∈ is, i ≠ .quantum) ∧ (afterAll is armed).isSome = true ∧
    armed.wdtArmed = false ∧ RecognisedStates armed ∧ (∀ i ∈ js, ∀ l v, i ≠ .fatal l v) ∧
    (afterAll js armed).isSome = true := by
  refine ⟨?_, by decide, by decide, by decide, by decide, ?_, by decide⟩ <;>
    simp

/-! ### Agents and executions (R9) -/

theorem test_watchdog_acts :
    Agent.context .wdt = none ∧ Agent.wdt.actsIn .quantum (frozenAt 1) = true ∧
    Agent.wdt.actsIn .quantum (frozenAt 2) = false ∧ Agent.wdt.actsIn .reset (frozenAt 1) = false ∧
    Agent.env.actsIn .quantum (frozenAt 1) = true := by decide

/-- `QUANTUM` for ever: from reset no counter is above 0, so the state stays. -/
theorem test_infinite_execution : (Trace.infinite fun _ => 0x03000000#32).Executes rst :=
  have h : perform 0x03000000#32 rst = .next rst := rfl
  ⟨fun _ => rst, rfl, fun _ => h⟩

theorem test_refused_trace_is_no_execution :
    ¬ (Trace.infinite fun _ => 0x40000000#32).Executes rst := by
  rintro ⟨states, -, h⟩
  cases h 0

theorem witness_UnmaskedSplitReadTears :
    let s := { pending 1 0x0100 with
      cells := { rst.cells with edgePhase := 1, pulseWidth := 0x00FF } }
    s.capf = true ∧ s.capie = true ∧ s.ie = true ∧ s.cells.edgePhase = 1#8 ∧
    s.cells.pulseWidth = 0x00FF#16 ∧ s.tcnt = 0x0100#16 := by decide

theorem witness_DistScalesMonotonically : (149#16).toNat ≤ (150#16).toNat := by decide

end Sys2Proof.Tests
end

/-! ## The state family: reset values, the invariants of R47, the setpoints of R254

What an owner-respecting step can leave is said once (`OwnedEffect`, `step_ownedEffect`), and so is what
a recognised loop-state step can leave (`LoopStep`, `loopStep_body`); each invariant then takes one
lemma per operation. -/

namespace Sys2Proof.Machine

open Sys2Proof

/-! ### Reset, loop by loop -/

@[simp] theorem doReset_st_get (l : LoopId) (s : State) : (doReset s).st.get l = 0#8 := by
  cases l <;> rfl

@[simp] theorem doReset_wake_get (l : LoopId) (s : State) : (doReset s).wake.get l = 0#16 := by
  cases l <;> rfl

/-! ### What a loop-state step can leave -/

/-- What the step of loop `l` leaves of `s` when the loop's state is recognised (R165). The CAR loop's
four steps all enter some car-control state (R180). -/
inductive LoopStep (s : State) : LoopId → State → Prop where
  | echoSetup (setup : s.st.echo = 0#8) : LoopStep s .echo (echoSetup s)
  | echoRun : LoopStep s .echo (echoRun s)
  | enterCar (n : CarState) : LoopStep s .car (enterCar n s)
  | motorSetup : LoopStep s .motor (motorSetup s)
  | motorRun : LoopStep s .motor (motorRun s)
  | steerSetup : LoopStep s .steer (steerSetup s)
  | steerRun : LoopStep s .steer (steerRun s)

theorem loopStep_carStep (choose : Byte → CarState) (s : State) :
    LoopStep s .car (carStep choose s) := by
  rw [carStep_eq]
  exact .enterCar _

/-- `body(L)` on a recognised state is a `LoopStep` (R165). -/
theorem loopStep_body {l : LoopId} {s : State} (h : l.recognises (s.st.get l) = true) :
    LoopStep s l (body l s).2 := by
  rw [LoopId.recognises_iff] at h
  cases l with
  | echo =>
    change s.st.echo.toNat < 2 at h
    rw [body_echo]
    split
    · next h0 => exact .echoSetup (BitVec.eq_of_toNat_eq h0)
    · rw [if_pos (by omega)]
      exact .echoRun
  | car =>
    change s.st.car.toNat < 4 at h
    rw [body_car]
    split
    · exact .enterCar .stopped
    split
    · exact loopStep_carStep _ s
    split
    · exact loopStep_carStep _ s
    · rw [if_pos (by omega)]
      exact loopStep_carStep _ s
  | motor =>
    change s.st.motor.toNat < 2 at h
    rw [body_motor]
    split
    · exact .motorSetup
    · rw [if_pos (by omega)]
      exact .motorRun
  | steer =>
    change s.st.steer.toNat < 2 at h
    rw [body_steer]
    split
    · exact .steerSetup
    · rw [if_pos (by omega)]
      exact .steerRun

/-- One iteration: a loop-state step and the reload of the wake counter, or `FATAL` on an
unrecognised state (R163, R166). -/
theorem iterate_loopStep (l : LoopId) (s : State) :
    (∃ u, LoopStep s l u ∧ iterate l s = setWake l (s.cfg.period.get l).val u) ∨
    (l.recognises (s.st.get l) = false ∧ iterate l s = fatal l (s.st.get l) s) := by
  rcases iterate_cases l s with ⟨hrec, e⟩ | ⟨hrec, e⟩
  · exact .inl ⟨_, loopStep_body hrec, e⟩
  · exact .inr ⟨hrec, e⟩

/-! ### What an owner-respecting step can leave -/

/-- The external collaborator writes only `DRIVE_CMD` in the next step: the flag of U4 is set (log 4),
or the word taken respects R28. -/
abbrev WritesOnlyCmd (s : State) : Prop :=
  s.extWritesOnlyCmd = true ∨ ∀ w ∈ s.trace.take 1, putsOnlyCmd w = true

/-- What one top-level operation leaves of `s` when the external collaborator writes only
`DRIVE_CMD` (R28). `idle` is a `TICK` of an unarmed unit and a `DISPATCH` that runs no loop. -/
inductive OwnedEffect (s : State) : State → Prop where
  | reset : OwnedEffect s (doReset s)
  | tick (n : Nat) (armed : s.armed = true) :
      OwnedEffect s { s with tcnt := BitVec.ofNat 16 (s.tcnt.toNat + n) }
  | edge (level capf : Bool) : OwnedEffect s { s with echoIn := level, capf := capf }
  | quantum : OwnedEffect s (quantum s)
  | get (r : Option Word) : OwnedEffect s { s with result := r }
  | putCmd (x : Byte) : OwnedEffect s (writeCell .driveCmd x s)
  | idle : OwnedEffect s s
  | iterate (l : LoopId) : OwnedEffect s (iterate l s)
  | capture (enabled : s.capie = true) : OwnedEffect s (captureHandler s)

/-- A `PUT` that respects R28 names the cell `DRIVE_CMD`. -/
theorem cell_of_putsOnlyCmd {w : OpWord} {c : BitVec 4} {v : Word} {cell : CellId}
    (hw : putsOnlyCmd w = true) (hd : decode (.opw w) = .ok (.put c v))
    (hc : CellId.ofIndex c = some cell) : cell = .driveCmd := by
  simp only [putsOnlyCmd, hd, beq_iff_eq] at hw
  subst hw
  rw [CellId.ofIndex_index] at hc
  exact (Option.some.inj hc).symm

theorem step_ownedEffect {s t : State} (hown : WritesOnlyCmd s) (h : step s = .next t) :
    ∃ rest, OwnedEffect (takeWord rest s) t := by
  obtain ⟨w, rest, i, htrace, hd, hi, he⟩ := step_next h
  refine ⟨rest, ?_⟩
  rcases exec_opw_next_cases hi he with
    ⟨_, rfl⟩ | ⟨n, _, harmed, rfl⟩ | ⟨_, _, _, rfl⟩ | ⟨_, level, _, _, rfl⟩ | ⟨_, rfl⟩ |
    ⟨_, _, _, _, rfl⟩ | ⟨c, v, cell, x, rfl, hc, _, hflag, rfl⟩ | ⟨_, rfl⟩ | ⟨l, _, _, rfl⟩ |
    ⟨_, _, hcapie, _, rfl⟩
  · exact .reset
  · exact .tick n.toNat harmed
  · exact .idle
  · exact .edge level _
  · exact .quantum
  · exact .get _
  · have hcell : cell = .driveCmd := by
      rcases hown with hset | hword
      · exact hflag hset
      · exact cell_of_putsOnlyCmd (hword w (by simp [htrace])) hd hc
    subst hcell
    exact .putCmd x
  · exact .idle
  · exact .iterate l
  · exact .capture hcapie

/-- No operation writes the flag of U4 (log 4). -/
theorem OwnedEffect.extWritesOnlyCmd_eq {s t : State} (e : OwnedEffect s t) :
    t.extWritesOnlyCmd = s.extWritesOnlyCmd := by
  cases e with
  | reset | tick | edge | get | putCmd | idle => rfl
  | quantum => rcases quantum_cases s with ⟨_, e⟩ | ⟨_, _, e⟩ | ⟨_, _, e⟩ <;> simp [e]
  | iterate l =>
    obtain ⟨-, -, -, -, hflag, -⟩ := body_keeps l s
    rcases iterate_cases l s with ⟨_, e⟩ | ⟨_, e⟩ <;> simp [e, hflag]
  | capture => rcases captureHandler_cases s with ⟨_, e⟩ | ⟨_, e⟩ <;> simp [e]

/-! ### The setpoints agree with the car-control state (R254) -/

theorem setpointsMatchState_doReset (s : State) : SetpointsMatchState (doReset s) := ⟨rfl, rfl⟩

/-- Entering a car-control state makes the setpoints agree with it, whatever they were (R180). -/
theorem setpointsMatchState_enterCar (n : CarState) (s : State) :
    SetpointsMatchState (enterCar n s) := by
  rw [enterCar_eq]
  cases n with
  | driving => exact ⟨rfl, rfl⟩
  | stopped => exact ⟨rfl, rfl⟩
  | avoid =>
    by_cases hpw : s.cells.pulseWidth.toNat < 150
    · exact .inl (by simp [setpointsOf, hpw])
    · exact .inr (by simp [setpointsOf, hpw])

theorem LoopStep.setpointsMatchState {s u : State} {l : LoopId} (hs : SetpointsMatchState s)
    (e : LoopStep s l u) : SetpointsMatchState u := by
  cases e with
  | enterCar n => exact setpointsMatchState_enterCar n s
  | echoSetup | echoRun | motorSetup | motorRun | steerSetup | steerRun => exact hs

theorem OwnedEffect.setpointsMatchState {s t : State} (hs : SetpointsMatchState s)
    (e : OwnedEffect s t) : SetpointsMatchState t := by
  cases e with
  | reset => exact setpointsMatchState_doReset s
  | tick | edge | get | putCmd | idle => exact hs
  | quantum =>
    rcases quantum_cases s with ⟨_, e⟩ | ⟨_, _, e⟩ | ⟨_, _, e⟩ <;> rw [e]
    · exact hs
    · exact hs
    · exact setpointsMatchState_doReset s
  | iterate l =>
    rcases iterate_loopStep l s with ⟨u, hu, e⟩ | ⟨_, e⟩ <;> rw [e]
    · change SetpointsMatchState u
      exact hu.setpointsMatchState hs
    · exact hs
  | capture => rcases captureHandler_cases s with ⟨_, e⟩ | ⟨_, e⟩ <;> rw [e] <;> exact hs

/-! ### The invariants of R47 -/

theorem recognisedStates_doReset (s : State) : RecognisedStates (doReset s) :=
  ⟨Nat.two_pos, Nat.succ_pos 3, Nat.two_pos, Nat.two_pos⟩

theorem invariant47_doReset (s : State) : Invariant47 (doReset s) :=
  ⟨.inl rfl, recognisedStates_doReset s, ⟨nofun, fun _ => ⟨rfl, rfl, rfl⟩⟩, ⟨rfl, nofun⟩, rfl, nofun⟩

theorem CarState.code_toNat_lt (n : CarState) : n.code.toNat < 4 := by
  cases n <;> decide

theorem phaseSeed_cases (c : Config) :
    (c.phaseSeed = false ∧ phaseSeed c = 0#8) ∨ (c.phaseSeed = true ∧ phaseSeed c = 1#8) := by
  cases h : c.phaseSeed <;> simp [phaseSeed, h]

/-- `ECHO.SETUP` arms the unit with the edge sense rising and the seed as its phase: R47's last clause
holds by one alternative for each seed (R131). -/
theorem invariant47_echoSetup {s : State} (hs : Invariant47 s) : Invariant47 (echoSetup s) := by
  obtain ⟨-, ⟨-, hcar, hmotor, hsteer⟩, -, hwdt, hie, -⟩ := hs
  have hrec : RecognisedStates (echoSetup s) := ⟨Nat.one_lt_two, hcar, hmotor, hsteer⟩
  have hlife : LifecycleCoherent (echoSetup s) := ⟨fun _ => ⟨rfl, rfl⟩, nofun⟩
  rcases phaseSeed_cases s.cfg with ⟨_, hphase⟩ | ⟨hseed, hphase⟩
  · exact ⟨.inl hphase, hrec, hlife, hwdt, hie, fun _ => .inl (iff_of_true rfl hphase)⟩
  · exact ⟨.inr hphase, hrec, hlife, hwdt, hie, fun _ => .inr ⟨hseed, rfl, hphase⟩⟩

theorem LoopStep.invariant47 {s u : State} {l : LoopId} (hs : Invariant47 s)
    (e : LoopStep s l u) : Invariant47 u := by
  have ⟨hphase, ⟨hecho, hcar, hmotor, hsteer⟩, hlife, hwdt, hie, hsense⟩ := hs
  cases e with
  | echoSetup => exact invariant47_echoSetup hs
  | echoRun | motorRun | steerRun => exact hs
  | enterCar n =>
    rw [enterCar_eq]
    exact ⟨hphase, ⟨hecho, n.code_toNat_lt, hmotor, hsteer⟩, hlife, hwdt, hie, hsense⟩
  | motorSetup => exact ⟨hphase, ⟨hecho, hcar, Nat.one_lt_two, hsteer⟩, hlife, hwdt, hie, hsense⟩
  | steerSetup => exact ⟨hphase, ⟨hecho, hcar, hmotor, Nat.one_lt_two⟩, hlife, hwdt, hie, hsense⟩

theorem RecognisedStates.recognises {s : State} (h : RecognisedStates s) (l : LoopId) :
    l.recognises (s.st.get l) = true := by
  obtain ⟨hecho, hcar, hmotor, hsteer⟩ := h
  rw [LoopId.recognises_iff]
  cases l with
  | echo => exact hecho
  | car => exact hcar
  | motor => exact hmotor
  | steer => exact hsteer

/-- With every state recognised an iteration takes no `FATAL`. -/
theorem invariant47_iterate {s : State} (hs : Invariant47 s) (l : LoopId) :
    Invariant47 (iterate l s) := by
  have ⟨_, hrec, _⟩ := hs
  rcases iterate_loopStep l s with ⟨u, hu, e⟩ | ⟨hunrec, -⟩
  · rw [e]
    change Invariant47 u
    exact hu.invariant47 hs
  · simp [hrec.recognises l] at hunrec

/-- While the watchdog is armed a quantum counts down to 1 at the least; at 0 it restarts the block
(R162, R168). -/
theorem invariant47_quantum {s : State} (hs : Invariant47 s) : Invariant47 (quantum s) := by
  rcases quantum_cases s with ⟨_, e⟩ | ⟨_, hcnt, e⟩ | ⟨_, _, e⟩ <;> rw [e]
  · exact hs
  · obtain ⟨hphase, hrec, hlife, ⟨hfrozen, hrange⟩, hie, hsense⟩ := hs
    refine ⟨hphase, hrec, hlife, ⟨hfrozen, fun hf => ?_⟩, hie, hsense⟩
    obtain ⟨-, hmax⟩ := hrange hf
    rw [countDown_toNat]
    exact ⟨by omega, Nat.le_trans (Nat.sub_le _ _) hmax⟩
  · exact invariant47_doReset s

/-- Each arm leaves edge sense and phase complementary, whatever they were (R136, R137, R138). -/
theorem senseComplementsPhase_captureHandler (s : State) :
    SenseComplementsPhase (captureHandler s) := by
  rcases captureHandler_cases s with ⟨_, e⟩ | ⟨_, e⟩ <;>
    rw [e, SenseComplementsPhase] <;> simp

/-- A unit whose capture interrupt is enabled is armed (R47). -/
theorem LifecycleCoherent.armed_of_capie {s : State} (h : LifecycleCoherent s)
    (hcapie : s.capie = true) : s.armed = true := by
  obtain ⟨-, hunarmed⟩ := h
  by_contra hna
  obtain ⟨-, hoff, -⟩ := hunarmed (by simpa using hna)
  simp [hoff] at hcapie

/-- The rise arm clears the timer and the fall arm keeps it; the unit being armed, R47 asks nothing of
the count (R136, R137). -/
theorem invariant47_captureHandler {s : State} (hs : Invariant47 s) (hcapie : s.capie = true) :
    Invariant47 (captureHandler s) := by
  have hsense : SenseCoherent (captureHandler s) :=
    fun _ => .inl (senseComplementsPhase_captureHandler s)
  obtain ⟨-, hrec, hlife, hwdt, hie, -⟩ := hs
  have harmed : s.armed = true := LifecycleCoherent.armed_of_capie hlife hcapie
  rcases captureHandler_cases s with ⟨_, e⟩ | ⟨_, e⟩ <;> rw [e] at hsense ⊢
  · exact ⟨.inr rfl, hrec, ⟨hlife.1, fun h => by simp [harmed] at h⟩, hwdt, hie, hsense⟩
  · exact ⟨.inl rfl, hrec, hlife, hwdt, hie, hsense⟩

theorem OwnedEffect.invariant47 {s t : State} (hs : Invariant47 s) (e : OwnedEffect s t) :
    Invariant47 t := by
  cases e with
  | reset => exact invariant47_doReset s
  | tick n harmed =>
    obtain ⟨hphase, hrec, ⟨hset, -⟩, hwdt, hie, hsense⟩ := hs
    exact ⟨hphase, hrec, ⟨hset, fun h => by simp [harmed] at h⟩, hwdt, hie, hsense⟩
  | edge | get | putCmd | idle => exact hs
  | quantum => exact invariant47_quantum hs
  | iterate l => exact invariant47_iterate hs l
  | capture hcapie => exact invariant47_captureHandler hs hcapie

/-! ### Phase and edge sense stay complementary (R47, R138) -/

/-- An armed unit is past its setup step, the one loop-state step that writes phase and edge sense. -/
theorem LoopStep.senseComplementsPhase {s u : State} {l : LoopId} (hlife : LifecycleCoherent s)
    (harmed : s.armed = true) (hs : SenseComplementsPhase s) (e : LoopStep s l u) :
    SenseComplementsPhase u := by
  cases e with
  | echoSetup hsetup =>
    obtain ⟨-, hrun⟩ := hlife.1 harmed
    simp [hsetup] at hrun
  | enterCar n => rw [enterCar_eq]; exact hs
  | echoRun | motorSetup | motorRun | steerSetup | steerRun => exact hs

/-- A unit that stays armed keeps phase and edge sense complementary: a restart disarms it. -/
theorem OwnedEffect.senseComplementsPhase {s t : State} (hlife : LifecycleCoherent s)
    (harmed : s.armed = true) (harmed' : t.armed = true) (hs : SenseComplementsPhase s)
    (e : OwnedEffect s t) : SenseComplementsPhase t := by
  cases e with
  | reset => simp at harmed'
  | tick | edge | get | putCmd | idle => exact hs
  | quantum =>
    rcases quantum_cases s with ⟨_, e⟩ | ⟨_, _, e⟩ | ⟨_, _, e⟩ <;> rw [e] at harmed' ⊢
    · exact hs
    · exact hs
    · simp at harmed'
  | iterate l =>
    rcases iterate_loopStep l s with ⟨u, hu, e⟩ | ⟨_, e⟩ <;> rw [e]
    · change SenseComplementsPhase u
      exact hu.senseComplementsPhase hlife harmed hs
    · exact hs
  | capture => exact senseComplementsPhase_captureHandler s

/-- A step that takes the word of `CAPTURE` leaves phase and edge sense complementary (R135). -/
theorem senseComplementsPhase_of_step_capture {s t : State} {rest : List OpWord}
    (htrace : s.trace = captureWord :: rest) (h : step s = .next t) : SenseComplementsPhase t := by
  have hexec : execCapture (takeWord rest s) = .next t := by
    simpa [step, htrace, show decode (.opw captureWord) = .ok .capture from rfl, exec] using h
  obtain ⟨-, -, -, rfl⟩ := execCapture_next hexec
  exact senseComplementsPhase_captureHandler _

/-! ### The obligations -/

/-- Settles O29: of an owner-respecting step's effects only the restart and the steps of CAR write what
R254 compares, and both leave it in agreement. -/
theorem setpointsMatchKept : Obligations.SetpointsMatchKept := by
  intro s t hown hs h
  obtain ⟨rest, e⟩ := step_ownedEffect hown h
  exact OwnedEffect.setpointsMatchState (s := takeWord rest s) hs e

/-- Settles O51: each effect of an owner-respecting step keeps the invariants of R47, and only the
setup step of an unarmed unit can leave phase and edge sense not complementary. -/
theorem invariantsKept : Obligations.InvariantsKept := by
  intro s t hown hs h
  obtain ⟨rest, e⟩ := step_ownedEffect hown h
  have hs' : Invariant47 (takeWord rest s) := hs
  have ⟨_, _, hlife, _⟩ := hs'
  exact ⟨e.invariant47 hs', e.extWritesOnlyCmd_eq,
    fun harmed harmed' hsense => e.senseComplementsPhase hlife harmed harmed' hsense,
    fun _ htrace => senseComplementsPhase_of_step_capture htrace h⟩

/-- Settles O2: the table of R45 is read off `doReset`, the loops' two registers loop by loop. -/
theorem resetValuesOfEveryElement : Obligations.ResetValuesOfEveryElement := by
  refine ⟨fun s => ⟨doReset s, rfl, fun l => doReset_st_get l s, fun l => doReset_wake_get l s, ?_⟩,
    fun c => ⟨rfl, rfl⟩⟩
  simp

end Sys2Proof.Machine

/-! ## The encoding family: the opcode map of R83, the reserved words of R91, the
loop-state words of R84

A row of the opcode map is said by its fields (`RowFields`), and `selects_row` reads match and mask as
conditions on the fields of the word. Class and operation choose at most one row, and the decoder
reads the word as that row exactly when the row selects it. -/

namespace Sys2Proof

/-! ### The fields of an operation word (R81) -/

theorem OpWord.make_fields (w : OpWord) :
    OpWord.make (OpWord.cls w) (OpWord.op w) (OpWord.idx w) (OpWord.rsv w) (OpWord.imm w) = w := by
  simp only [OpWord.make, OpWord.cls, OpWord.op, OpWord.idx, OpWord.rsv, OpWord.imm]
  rw [BitVec.extractLsb'_append_extractLsb'_eq_extractLsb' (show 28 = 24 + 4 from rfl),
    BitVec.extractLsb'_append_extractLsb'_eq_extractLsb' (show 24 = 20 + 4 from rfl),
    BitVec.extractLsb'_append_extractLsb'_eq_extractLsb' (show 20 = 16 + 4 from rfl),
    BitVec.extractLsb'_append_extractLsb'_eq_extractLsb' (show 16 = 0 + 16 from rfl),
    BitVec.extractLsb'_eq_self]

theorem OpWord.eq_iff_fields {w v : OpWord} :
    w = v ↔ OpWord.cls w = OpWord.cls v ∧ OpWord.op w = OpWord.op v ∧
      OpWord.idx w = OpWord.idx v ∧ OpWord.rsv w = OpWord.rsv v ∧ OpWord.imm w = OpWord.imm v := by
  constructor
  · rintro rfl
    exact ⟨rfl, rfl, rfl, rfl, rfl⟩
  · rintro ⟨hcls, hop, hidx, hrsv, himm⟩
    rw [← OpWord.make_fields w, ← OpWord.make_fields v, hcls, hop, hidx, hrsv, himm]

@[simp] theorem OpWord.cls_and (w v : OpWord) :
    OpWord.cls (w &&& v) = OpWord.cls w &&& OpWord.cls v := BitVec.extractLsb'_and

@[simp] theorem OpWord.op_and (w v : OpWord) :
    OpWord.op (w &&& v) = OpWord.op w &&& OpWord.op v := BitVec.extractLsb'_and

@[simp] theorem OpWord.idx_and (w v : OpWord) :
    OpWord.idx (w &&& v) = OpWord.idx w &&& OpWord.idx v := BitVec.extractLsb'_and

@[simp] theorem OpWord.rsv_and (w v : OpWord) :
    OpWord.rsv (w &&& v) = OpWord.rsv w &&& OpWord.rsv v := BitVec.extractLsb'_and

@[simp] theorem OpWord.imm_and (w v : OpWord) :
    OpWord.imm (w &&& v) = OpWord.imm w &&& OpWord.imm v := BitVec.extractLsb'_and

/-! ### Index fields out of range -/

theorem CellId.ofIndex_eq_none {c : BitVec 4} (h : 5 ≤ c.toNat) : CellId.ofIndex c = none := by
  rcases CellId.ofIndex_cases c with ⟨_, _, _, hlt⟩ | ⟨hnone, _⟩
  · omega
  · exact hnone

theorem LoopId.ofIndex_eq_none {l : BitVec 4} (h : 4 ≤ l.toNat) : LoopId.ofIndex l = none := by
  rcases LoopId.ofIndex_cases l with ⟨_, _, _, hlt⟩ | ⟨hnone, _⟩
  · omega
  · exact hnone

/-! ### The loop-state words (R84) -/

/-- The loop's id stands right above the eight bits of the state value. -/
theorem LoopStateWord.form_eq_ofNat (l : LoopId) (v : Byte) :
    LoopStateWord.form l v = BitVec.ofNat 16 (l.index.toNat * 0x100 + v.toNat) := by
  apply BitVec.eq_of_toNat_eq
  have hv := v.isLt
  have hl := l.index.isLt
  rw [LoopStateWord.form, BitVec.toNat_append, BitVec.toNat_append,
    ← Nat.shiftLeft_add_eq_or_of_lt hv, Nat.shiftLeft_eq]
  simp
  omega

@[simp] theorem decode_form (l : LoopId) (v : Byte) :
    decode (.lsw (LoopStateWord.form l v)) = .ok (decodeLoopState l v) := by
  simp [decode, decodeLsw]

theorem decodeLoopState_of_unrecognised {l : LoopId} {v : Byte} (h : l.recognises v = false) :
    decodeLoopState l v = .fatal l v := by
  unfold decodeLoopState
  split
  case h_11 => rfl
  all_goals simp [LoopId.recognises, *] at h

/-- The words of the ten rows other than `FATAL` (R84). -/
def listedLoopWords : List LoopStateWord :=
  [0x0000#16, 0x0001#16, 0x0100#16, 0x0101#16, 0x0102#16, 0x0103#16, 0x0200#16, 0x0201#16,
    0x0300#16, 0x0301#16]

theorem form_mem_listedLoopWords {l : LoopId} {v : Byte} (h : l.recognises v = true) :
    LoopStateWord.form l v ∈ listedLoopWords := by
  rw [LoopId.recognises_iff] at h
  rw [LoopStateWord.form_eq_ofNat]
  cases l with
  | car =>
    have hv : v.toNat < 4 := h
    interval_cases v.toNat <;> decide
  | echo | motor | steer =>
    have hv : v.toNat < 2 := h
    interval_cases v.toNat <;> decide

theorem decode_form_of_not_listed {l : LoopId} {v : Byte}
    (h : LoopStateWord.form l v ∉ listedLoopWords) :
    decode (.lsw (LoopStateWord.form l v)) = .ok (.fatal l v) := by
  have hunrec : l.recognises v = false :=
    Bool.eq_false_iff.2 fun hrec => h (form_mem_listedLoopWords hrec)
  rw [decode_form, decodeLoopState_of_unrecognised hunrec]

namespace Machine

/-! ### The rows of the opcode map, by their fields (R83) -/

/-- The mask of a field of `n` bits: all its bits when the row fixes the field. -/
def fieldMask (n : Nat) (fixed : Bool) : BitVec n := if fixed then BitVec.allOnes n else 0#n

@[simp] theorem and_fieldMask_true {n : Nat} (x : BitVec n) : x &&& fieldMask n true = x :=
  BitVec.and_allOnes

@[simp] theorem and_fieldMask_eq_zero {n : Nat} (x : BitVec n) (fixed : Bool) :
    x &&& fieldMask n fixed = 0#n ↔ fixed = false ∨ x = 0#n := by
  cases fixed
  · simp [fieldMask]
  · simp

/-- A row of the opcode map: its class and operation, and whether it fixes `idx` and `imm` to 0. Every
row fixes `rsv` to 0. -/
structure RowFields where
  cls : BitVec 4
  op : BitVec 4
  fixesIdx : Bool
  fixesImm : Bool

/-- Match and mask of a row. -/
def RowFields.row (f : RowFields) : OpWord × OpWord :=
  (OpWord.make f.cls f.op 0 0 0,
    OpWord.make (fieldMask 4 true) (fieldMask 4 true) (fieldMask 4 f.fixesIdx) (fieldMask 4 true)
      (fieldMask 16 f.fixesImm))

/-- The eleven rows, in the order of `opwRows`. -/
def rowFields : List RowFields :=
  [⟨0, 0, true, true⟩, ⟨0, 1, true, false⟩, ⟨0, 2, true, false⟩, ⟨0, 3, true, true⟩,
   ⟨1, 0, false, true⟩, ⟨1, 1, false, false⟩, ⟨1, 2, false, true⟩, ⟨1, 3, false, false⟩,
   ⟨2, 0, true, true⟩, ⟨2, 1, false, true⟩, ⟨3, 0, true, true⟩]

theorem opwRows_eq_map : opwRows = rowFields.map RowFields.row := rfl

theorem getElem?_opwRows {k : Nat} {row : OpWord × OpWord} :
    opwRows[k]? = some row ↔ ∃ f, rowFields[k]? = some f ∧ f.row = row := by
  rw [opwRows_eq_map, List.getElem?_map, Option.map_eq_some_iff]

/-- The word has the class and the operation of the row. -/
def HasCode (w : OpWord) (f : RowFields) : Prop := OpWord.cls w = f.cls ∧ OpWord.op w = f.op

/-- The fields that the row fixes to 0 are 0 in the word. -/
def RowFields.zeroIn (f : RowFields) (w : OpWord) : Bool :=
  OpWord.rsv w == 0#4 && (!f.fixesIdx || OpWord.idx w == 0#4) &&
    (!f.fixesImm || OpWord.imm w == 0#16)

/-- Match and mask, read as conditions on the word's fields. -/
theorem selects_row (w : OpWord) (f : RowFields) :
    selects w f.row = true ↔ HasCode w f ∧ f.zeroIn w = true := by
  rw [selects, beq_iff_eq, OpWord.eq_iff_fields]
  simp [RowFields.row, HasCode, RowFields.zeroIn, and_assoc, and_left_comm]

theorem HasCode.of_selects {w : OpWord} {f : RowFields} (h : selects w f.row = true) :
    HasCode w f := ((selects_row w f).1 h).1

theorem HasCode.selects_eq {w : OpWord} {f : RowFields} (h : HasCode w f) :
    selects w f.row = f.zeroIn w := by
  rw [Bool.eq_iff_iff, selects_row, and_iff_right h]

/-- No two rows have the same class and operation. -/
theorem HasCode.index_unique {w : OpWord} {j k : Nat} {f g : RowFields}
    (hf : rowFields[j]? = some f) (hg : rowFields[k]? = some g) (hwf : HasCode w f)
    (hwg : HasCode w g) : j = k := by
  have hnodup : (rowFields.map fun f => (f.cls, f.op)).Nodup := by decide
  obtain ⟨hfcls, hfop⟩ := hwf
  obtain ⟨hgcls, hgop⟩ := hwg
  have hj : j < (rowFields.map fun f => (f.cls, f.op)).length := by
    simpa using (List.getElem?_eq_some_iff.1 hf).1
  refine (List.getElem?_inj hj hnodup).1 ?_
  simp [hf, hg, ← hfcls, ← hfop, hgcls, hgop]

/-- "The masks are chosen so that the eleven rows never overlap" (R83). -/
theorem selected_row_unique {w : OpWord} {j k : Nat} {r r' : OpWord × OpWord}
    (hr : opwRows[j]? = some r) (hr' : opwRows[k]? = some r') (hsel : selects w r = true)
    (hsel' : selects w r' = true) : j = k := by
  obtain ⟨f, hf, rfl⟩ := getElem?_opwRows.1 hr
  obtain ⟨g, hg, rfl⟩ := getElem?_opwRows.1 hr'
  exact HasCode.index_unique hf hg (.of_selects hsel) (.of_selects hsel')

/-! ### Decoding an operation word -/

theorem exists_rowInstr {k : Nat} {f : RowFields} (hf : rowFields[k]? = some f) (w : OpWord) :
    ∃ i, rowInstr k w = some i := by
  have hk : k < 11 := (List.getElem?_eq_some_iff.1 hf).1
  interval_cases k <;> exact ⟨_, rfl⟩

/-- A word with the class and the operation of a row is read as that row's instruction, or as nothing
when the row does not select it. -/
theorem decode_of_hasCode {w : OpWord} {k : Nat} {f : RowFields} {i : Instr}
    (hf : rowFields[k]? = some f) (hi : rowInstr k w = some i) (hw : HasCode w f) :
    decode (.opw w) = fixedZero (selects w f.row) i := by
  have hk : k < 11 := (List.getElem?_eq_some_iff.1 hf).1
  rw [hw.selects_eq]
  obtain ⟨hcls, hop⟩ := hw
  interval_cases k <;> cases hf <;> cases hi <;>
    simp [decode, decodeOpw, RowFields.zeroIn, hcls, hop, OpWord.idx, OpWord.imm]

/-- Each arm of the decoder that is not `ReservedEncoding` is that of some row's class and
operation. -/
theorem decode_of_no_code {w : OpWord} (h : ∀ f ∈ rowFields, ¬ HasCode w f) :
    decode (.opw w) = .error .reservedEncoding := by
  simp only [HasCode, rowFields, List.forall_mem_cons, ← BitVec.toNat_inj] at h
  simp only [decode, decodeOpw]
  split <;> simp_all

/-- What the decoder makes of any operation word: one row's instruction or nothing, as that row
selects the word; or nothing, where no row has its class and operation. -/
theorem decode_opw_cases (w : OpWord) :
    (∃ k f i, rowFields[k]? = some f ∧ rowInstr k w = some i ∧
      decode (.opw w) = fixedZero (selects w f.row) i) ∨
    decode (.opw w) = .error .reservedEncoding := by
  by_cases hcode : ∃ f ∈ rowFields, HasCode w f
  · obtain ⟨f, hmem, hw⟩ := hcode
    obtain ⟨k, hf⟩ := List.mem_iff_getElem?.1 hmem
    obtain ⟨i, hi⟩ := exists_rowInstr hf w
    exact .inl ⟨k, f, i, hf, hi, decode_of_hasCode hf hi hw⟩
  · exact .inr (decode_of_no_code (by simpa using hcode))

theorem decode_opw_eq_ok_iff (w : OpWord) (i : Instr) :
    decode (.opw w) = .ok i ↔
      ∃ k row, opwRows[k]? = some row ∧ selects w row = true ∧ rowInstr k w = some i := by
  constructor
  · intro hd
    rcases decode_opw_cases w with ⟨k, f, j, hf, hj, e⟩ | e <;> rw [e] at hd
    · obtain ⟨hsel, rfl⟩ := fixedZero_eq_ok.1 hd
      exact ⟨k, f.row, getElem?_opwRows.2 ⟨f, hf, rfl⟩, hsel, hj⟩
    · cases hd
  · rintro ⟨k, row, hrow, hsel, hi⟩
    obtain ⟨f, hf, rfl⟩ := getElem?_opwRows.1 hrow
    rw [decode_of_hasCode hf hi (.of_selects hsel), fixedZero_eq_ok]
    exact ⟨hsel, rfl⟩

theorem decode_of_no_row {w : OpWord} (h : ∀ row ∈ opwRows, selects w row = false) :
    decode (.opw w) = .error .reservedEncoding := by
  rcases decode_opw_cases w with ⟨k, f, i, hf, -, e⟩ | e
  · have hunsel : selects w f.row = false :=
      h f.row (List.mem_of_getElem? (getElem?_opwRows.2 ⟨f, hf, rfl⟩))
    rw [e, hunsel]
    rfl
  · exact e

/-! ### Operands out of range (R82, R83) -/

/-- A value of `2 ^ k` or more has a bit set above its low `k`. -/
theorem extractLsb'_ne_zero {k n : Nat} {v : BitVec (k + n)} (h : 2 ^ k ≤ v.toNat) :
    v.extractLsb' k n ≠ 0#n := by
  intro hzero
  have hv : v.toNat / 2 ^ k < 2 ^ n := Nat.div_lt_of_lt_mul (by rw [← Nat.pow_add]; exact v.isLt)
  have hdiv : v.toNat / 2 ^ k = 0 := by
    simpa [Nat.shiftRight_eq_div_pow, Nat.mod_eq_of_lt hv] using congrArg BitVec.toNat hzero
  have := Nat.div_pos h (Nat.two_pow_pos k)
  omega

theorem edgeLevel_eq_none {v : Word} (h : 2 ≤ v.toNat) : edgeLevel v = none :=
  if_neg (extractLsb'_ne_zero (k := 1) (n := 15) h)

theorem putValue_edgePhase_eq_none {v : Word} (h : 256 ≤ v.toNat) : putValue .edgePhase v = none :=
  if_neg (extractLsb'_ne_zero (k := 8) (n := 8) h)

theorem putValue_driveCmd_eq_none {v : Word} (h : 256 ≤ v.toNat) : putValue .driveCmd v = none :=
  if_neg (extractLsb'_ne_zero (k := 8) (n := 8) h)

theorem exec_cell_badIndex {c : BitVec 4} (h : 5 ≤ c.toNat) (v : Word) (s : State) :
    ∀ i ∈ [Instr.get c, .put c v, .getIsr c, .putIsr c v], exec i s = .refused .badIndex := by
  simp [exec, execGet, execPut, execGetIsr, execPutIsr, CellId.ofIndex_eq_none h]

theorem exec_step_badIndex {l : BitVec 4} (h : 4 ≤ l.toNat) (s : State) :
    exec (.step l) s = .refused .badIndex := by
  simp [exec, execStep, LoopId.ofIndex_eq_none h]

theorem exec_edge_operandRange {v : Word} (h : 2 ≤ v.toNat) (s : State) :
    exec (.edge v) s = .refused .operandRange := by
  simp [exec, execEdge, edgeLevel_eq_none h]

theorem exec_put_operandRange {c : BitVec 4} {cell : CellId} {v : Word}
    (hc : CellId.ofIndex c = some cell) (h : putValue cell v = none) (s : State) :
    exec (.put c v) s = .refused .operandRange := by
  simp [exec, execPut, hc, h]

/-! ### The obligations -/

/-- Settles O40: match and mask are conditions on the word's fields (`selects_row`), and each arm of
the decoder asks the same conditions (`decode_of_hasCode`). -/
theorem opcodeMapSelectsRows : Obligations.OpcodeMapSelectsRows :=
  ⟨decode_opw_eq_ok_iff, fun _ _ _ _ _ => selected_row_unique,
    fun _ v s hc => exec_cell_badIndex hc v s, fun _ s hl => exec_step_badIndex hl s,
    fun _ s hv => exec_edge_operandRange hv s, fun _ s hv =>
      ⟨exec_put_operandRange rfl (putValue_edgePhase_eq_none hv) s,
        exec_put_operandRange rfl (putValue_driveCmd_eq_none hv) s⟩⟩

/-- Settles O41: a step refuses what the decoder does not read. -/
theorem reservedWordsRefused : Obligations.ReservedWordsRefused := by
  intro w rest s h
  have hd := decode_of_no_row h
  exact ⟨hd, by simp [step, hd, refusalOf]⟩

/-- Settles O42: the word of a recognised state is one of the ten listed words, so every other word is
that of an unrecognised state. -/
theorem loopStateWordMap : Obligations.LoopStateWordMap := by
  refine ⟨fun v => ?_, rfl, rfl, rfl, rfl, rfl, rfl, rfl, rfl, rfl, rfl, ?_⟩
  · simp [LoopStateWord.form_eq_ofNat, LoopId.index]
  · rintro _ l v rfl h
    exact decode_form_of_not_listed h

end Machine

end Sys2Proof

/-! ## The cell access family: `GET`, `PUT`, `GET_ISR`, `PUT_ISR` (R111 to R114)

Each operation is said once for every cell (`exec_get_index`, `exec_put_index`) or for every index that
names one (`exec_getIsr_of_lt`, `exec_putIsr_of_lt`); an index that names none is refused by
`exec_cell_badIndex`. -/

namespace Sys2Proof

/-! ### The words of the cell operations (R83) -/

theorem fixedZero_eq_error {zero : Bool} {i : Instr} :
    fixedZero zero i = .error .reservedEncoding ↔ zero = false := by
  cases zero <;> simp [fixedZero]

theorem decode_make_get (c rsv : BitVec 4) (imm : Word) :
    decode (.opw (OpWord.make 1 0 c rsv imm)) = fixedZero (rsv == 0#4 && imm == 0#16) (.get c) := by
  simp [decode, decodeOpw]

theorem decode_make_put (c rsv : BitVec 4) (v : Word) :
    decode (.opw (OpWord.make 1 1 c rsv v)) = fixedZero (rsv == 0#4) (.put c v) := by
  simp [decode, decodeOpw]

theorem decode_make_getIsr (c rsv : BitVec 4) (imm : Word) :
    decode (.opw (OpWord.make 1 2 c rsv imm)) =
      fixedZero (rsv == 0#4 && imm == 0#16) (.getIsr c) := by
  simp [decode, decodeOpw]

theorem decode_make_putIsr (c rsv : BitVec 4) (v : Word) :
    decode (.opw (OpWord.make 1 3 c rsv v)) = fixedZero (rsv == 0#4) (.putIsr c v) := by
  simp [decode, decodeOpw]

/-! ### Index and operand (R82, R110) -/

theorem CellId.exists_ofIndex_of_lt {c : BitVec 4} (h : c.toNat < 5) :
    ∃ cell, CellId.ofIndex c = some cell := by
  rcases CellId.ofIndex_cases c with ⟨cell, hcell, -⟩ | ⟨-, hle⟩
  · exact ⟨cell, hcell⟩
  · omega

/-- A value below `2 ^ k` has no bit set above its low `k`. -/
theorem extractLsb'_eq_zero {w k n : Nat} {v : BitVec w} (h : v.toNat < 2 ^ k) :
    v.extractLsb' k n = 0#n := by
  apply BitVec.eq_of_toNat_eq
  simp [Nat.shiftRight_eq_div_pow, Nat.div_eq_of_lt h]

namespace Machine

theorem putValue_edgePhase {v : Word} (h : v.toNat < 256) :
    putValue .edgePhase v = some (v.setWidth 8) := by
  rw [putValue, if_pos (extractLsb'_eq_zero (k := 8) h), BitVec.setWidth_eq_extractLsb' (by decide)]

theorem putValue_driveCmd {v : Word} (h : v.toNat < 256) :
    putValue .driveCmd v = some (v.setWidth 8) := putValue_edgePhase h

/-! ### The four operations on an index that names a cell -/

/-- A masked read: the cell is the result, and nothing else changes (R111). -/
theorem exec_get_index (cell : CellId) (s : State) :
    exec (.get cell.index) s = .next { s with result := some (ext16 cell (readCell cell s)) } := by
  simp [exec, execGet]

/-- A masked write of a value of the cell's type, by a designated writer (R112, log 4). -/
theorem exec_put_index {cell : CellId} {v : Word} {x : BitVec cell.width} {s : State}
    (hx : putValue cell v = some x) (hown : s.extWritesOnlyCmd = true → cell = .driveCmd) :
    exec (.put cell.index v) s = .next (writeCell cell x s) := by
  have howner : (s.extWritesOnlyCmd && cell != .driveCmd) = false := by simpa using hown
  simp [exec, execPut, hx, howner]

theorem exec_put_index_of_flag_clear {cell : CellId} {v : Word} {x : BitVec cell.width} {s : State}
    (hx : putValue cell v = some x) (hflag : s.extWritesOnlyCmd = false) :
    exec (.put cell.index v) s = .next (writeCell cell x s) :=
  exec_put_index hx fun hset => by simp [hflag] at hset

theorem exec_getIsr_of_lt {c : BitVec 4} (h : c.toNat < 5) (s : State) :
    exec (.getIsr c) s = .refused .contractViolation := by
  obtain ⟨cell, hcell⟩ := CellId.exists_ofIndex_of_lt h
  simp [exec, execGetIsr, hcell]

theorem exec_putIsr_of_lt {c : BitVec 4} (h : c.toNat < 5) (v : Word) (s : State) :
    exec (.putIsr c v) s = .refused .contractViolation := by
  obtain ⟨cell, hcell⟩ := CellId.exists_ofIndex_of_lt h
  simp [exec, execPutIsr, hcell]

/-! ### The obligations -/

/-- Settles O9: the masked read at each of the five cells, whose value `ext16` extends by its width. -/
theorem getReturnsCell : Obligations.GetReturnsCell := by
  refine ⟨fun c => decode_make_get c 0 0, fun c rsv imm h => ?_, fun s =>
    ⟨exec_get_index .edgePhase s, exec_get_index .pulseWidth s, exec_get_index .driveCmd s,
      exec_get_index .motorSp s, exec_get_index .steerSp s⟩,
    fun c s hc => exec_cell_badIndex hc 0 s _ (by simp)⟩
  rw [decode_make_get, fixedZero_eq_error]
  simpa [imp_iff_not_or] using h

/-- Settles O10: the masked write at each of the five cells, once the operand is a value of the cell's
type (`putValue`) and its writer is a designated one. -/
theorem putReplacesCell : Obligations.PutReplacesCell := by
  refine ⟨fun c v => decode_make_put c 0 v, fun c rsv v hrsv => ?_,
    fun v s hv hflag => exec_put_index_of_flag_clear (putValue_edgePhase hv) hflag,
    fun v s hflag => ⟨exec_put_index_of_flag_clear (cell := .pulseWidth) rfl hflag,
      exec_put_index_of_flag_clear (cell := .motorSp) rfl hflag,
      exec_put_index_of_flag_clear (cell := .steerSp) rfl hflag⟩,
    fun v s hv => exec_put_index (putValue_driveCmd hv) fun _ => rfl,
    fun v s hv => ⟨exec_put_operandRange rfl (putValue_edgePhase_eq_none hv) s,
      exec_put_operandRange rfl (putValue_driveCmd_eq_none hv) s⟩,
    fun c v s hc => exec_cell_badIndex hc v s _ (by simp)⟩
  rw [decode_make_put, fixedZero_eq_error]
  simpa using hrsv

/-- Settles O12: at top level the index alone decides the refusal; each primitive is the read or the
write of one cell (`cellGetIsr_eq`, `cellPutIsr_eq`). -/
theorem interruptPathRefusedAtTopLevel : Obligations.InterruptPathRefusedAtTopLevel := by
  refine ⟨fun c => decode_make_getIsr c 0 0, fun c v => decode_make_putIsr c 0 v, fun s => ?_,
    fun b w s => ?_, fun c s hc => exec_getIsr_of_lt hc s, fun c v s hc => exec_putIsr_of_lt hc v s,
    fun c v s hc => ⟨exec_cell_badIndex hc v s _ (by simp), exec_cell_badIndex hc v s _ (by simp)⟩⟩
  · simp [readCell]
  · simp [writeCell]

end Machine

end Sys2Proof

/-! ## The echo timing family: `TICK`, `EDGE`, `CAPTURE` and its arms, the echo loop, `DIST` (R131 to
R137, R141)

Each operation is said once as what it leaves in each of its cases: `TICK` armed and not armed, `EDGE`
by the level that its operand gives, `CAPTURE` by the three enables and then by the phase. -/

namespace Sys2Proof

/-! ### The words of the timing operations and the phase values (R83, R85) -/

theorem decode_make_tick (idx rsv : BitVec 4) (n : Word) :
    decode (.opw (OpWord.make 0 1 idx rsv n)) =
      fixedZero (rsv == 0#4 && idx == 0#4) (.tick n) := by
  simp [decode, decodeOpw]

theorem decode_make_edge (idx rsv : BitVec 4) (v : Word) :
    decode (.opw (OpWord.make 0 2 idx rsv v)) =
      fixedZero (rsv == 0#4 && idx == 0#4) (.edge v) := by
  simp [decode, decodeOpw]

theorem decode_make_capture (idx rsv : BitVec 4) (imm : Word) :
    decode (.opw (OpWord.make 3 0 idx rsv imm)) =
      fixedZero (rsv == 0#4 && idx == 0#4 && imm == 0#16) .capture := by
  simp [decode, decodeOpw]

/-- A row that fixes `idx` and `rsv` to 0 does not select a word with either of them set. -/
theorem fixedZero_idx_rsv_eq_error {idx rsv : BitVec 4} (h : idx ≠ 0#4 ∨ rsv ≠ 0#4) (i : Instr) :
    fixedZero (rsv == 0#4 && idx == 0#4) i = .error .reservedEncoding := by
  rw [fixedZero_eq_error, Bool.and_eq_false_iff, beq_eq_false_iff_ne, beq_eq_false_iff_ne]
  exact h.symm

theorem decode_phv_of_ne_zero {w : PhaseValue} (h : w ≠ 0#8) :
    decode (.phv w) = .ok .captureFall := by
  rw [decode, decodePhv, if_neg h]

theorem PosNat.one_le (x : PosNat) : 1 ≤ x.val := Nat.succ_pos x.pred

namespace Machine

/-! ### `TICK` (R133) -/

theorem exec_tick_of_armed {s : State} (h : s.armed = true) (n : Word) :
    exec (.tick n) s = .next { s with tcnt := BitVec.ofNat 16 (s.tcnt.toNat + n.toNat) } := by
  simp [exec, execTick, tickCount, h]

theorem exec_tick_of_not_armed {s : State} (h : s.armed = false) (n : Word) :
    exec (.tick n) s = .next s := by
  simp [exec, execTick, h]

/-! ### `EDGE` (R134) -/

/-- The selected edge sets the pending flag, and no edge clears it. -/
theorem capfAfterEdge_eq_or (capf old new es : Bool) :
    capfAfterEdge capf old new es = (capf || edgeSelected old new es) := by
  cases capf <;> simp [capfAfterEdge]

@[simp] theorem edgeSelected_rise (old es : Bool) : edgeSelected old true es = (!old && es) := by
  simp [edgeSelected]

@[simp] theorem edgeSelected_fall (old es : Bool) : edgeSelected old false es = (old && !es) := by
  simp [edgeSelected]

theorem exec_edge_of_level {v : Word} {level : Bool} (h : edgeLevel v = some level) (s : State) :
    exec (.edge v) s =
      .next { s with echoIn := level, capf := s.capf || edgeSelected s.echoIn level s.es } := by
  simp [exec, execEdge, h, capfAfterEdge_eq_or]

/-! ### `CAPTURE` and its arms (R135 to R137) -/

theorem captureEnabled_eq_false_iff (s : State) :
    captureEnabled s = false ↔ s.capf = false ∨ s.capie = false ∨ s.ie = false := by
  simp only [captureEnabled, Bool.and_eq_false_iff, or_assoc]

theorem exec_capture_of_disabled {s : State} (h : captureEnabled s = false) :
    exec .capture s = .refused .notEnabled := by
  simp [exec, execCapture, h]

theorem exec_capture_of_enabled {s : State} (hcapf : s.capf = true) (hcapie : s.capie = true)
    (hie : s.ie = true) : exec .capture s = .next (captureHandler s) := by
  simp [exec, execCapture, captureEnabled, hcapf, hcapie, hie]

theorem captureHandler_of_phase_zero {s : State} (h : s.cells.edgePhase = 0#8) :
    captureHandler s =
      { s with
        capf := false, es := false, tcnt := 0#16, cells := { s.cells with edgePhase := 1#8 } } := by
  rcases captureHandler_cases s with ⟨-, e⟩ | ⟨hne, -⟩
  · exact e
  · exact absurd h hne

theorem captureHandler_of_phase_ne_zero {s : State} (h : s.cells.edgePhase ≠ 0#8) :
    captureHandler s =
      { s with
        capf := false, es := true
        cells := { s.cells with pulseWidth := s.tcnt, edgePhase := 0#8 } } := by
  rcases captureHandler_cases s with ⟨hzero, -⟩ | ⟨-, e⟩
  · exact absurd hzero h
  · exact e

theorem exec_captureRise (s : State) : exec .captureRise s = .next (captureRise s.tcnt s) := rfl

theorem exec_captureFall (s : State) : exec .captureFall s = .next (captureFall s.tcnt s) := rfl

/-! ### The echo loop (R131, R132) -/

theorem exec_echoSetup (s : State) : exec .echoSetup s = .next (echoSetup s) := rfl

theorem exec_echoRun (s : State) : exec .echoRun s = .next (echoRun s) := rfl

theorem echoRun_echoRun (s : State) : echoRun (echoRun s) = s := by
  simp [echoRun]

/-! ### `DIST` (R141) -/

theorem pulseDistance_zero (c : Config) : pulseDistance c 0 = 0 := by
  simp [pulseDistance]

theorem pulseDistance_le_of_le (c : Config) {p q : Word} (h : p.toNat ≤ q.toNat) :
    pulseDistance c p ≤ pulseDistance c q :=
  Nat.div_le_div_right (Nat.mul_le_mul_right c.distNum.val h)

/-! ### The obligations -/

/-- Settles O5: the armed and the unarmed case of `TICK`; a 16-bit sum is the sum modulo 65536. -/
theorem tickAdvancesTimer : Obligations.TickAdvancesTimer := by
  refine ⟨fun n => decode_make_tick 0 0 n, fun idx rsv n h => ?_, fun n s harmed => ?_,
    fun n s hidle => exec_tick_of_not_armed hidle n⟩
  · rw [decode_make_tick, fixedZero_idx_rsv_eq_error h]
  · have hwrap : BitVec.ofNat 16 ((s.tcnt.toNat + n.toNat) % 65536) =
        BitVec.ofNat 16 (s.tcnt.toNat + n.toNat) := BitVec.eq_of_toNat_eq (by simp)
    rw [exec_tick_of_armed harmed, hwrap]

/-- Settles O7: an immediate of 0 or 1 is a level, and the edge to it is selected as `ES` says
(`edgeSelected_rise`, `edgeSelected_fall`). -/
theorem edgeDrivesCaptureFlag : Obligations.EdgeDrivesCaptureFlag := by
  refine ⟨fun v => decode_make_edge 0 0 v, fun idx rsv v h => ?_,
    fun v s hv => exec_edge_operandRange hv s, fun s => ?_, fun s => ?_⟩
  · rw [decode_make_edge, fixedZero_idx_rsv_eq_error h]
  · rw [exec_edge_of_level (level := true) rfl, edgeSelected_rise]
  · rw [exec_edge_of_level (level := false) rfl, edgeSelected_fall]

/-- Settles O14: the three enables decide whether the handler is entered, and the phase alone which arm
it runs (`captureHandler_cases`). -/
theorem captureRunsArmOfPhase : Obligations.CaptureRunsArmOfPhase := by
  refine ⟨decode_make_capture 0 0 0, fun idx rsv imm h => ?_,
    fun s h => exec_capture_of_disabled ((captureEnabled_eq_false_iff s).2 h),
    fun s hcapf hcapie hie hzero => ?_, fun s hcapf hcapie hie hne => ?_⟩
  · rw [decode_make_capture, fixedZero_eq_error]
    simpa [imp_iff_not_or, or_assoc, or_left_comm] using h
  · rw [exec_capture_of_enabled hcapf hcapie hie, captureHandler_of_phase_zero hzero]
  · rw [exec_capture_of_enabled hcapf hcapie hie, captureHandler_of_phase_ne_zero hne]

/-- Settles O15: the rise arm as one update of the state. -/
theorem captureRiseStartsPulse : Obligations.CaptureRiseStartsPulse :=
  ⟨rfl, fun s => by rw [exec_captureRise, captureRise_eq]⟩

/-- Settles O16: the fall arm as one update of the state, its operand the count on entry. -/
theorem captureFallRecordsWidth : Obligations.CaptureFallRecordsWidth :=
  ⟨fun _ hw => decode_phv_of_ne_zero hw, fun s => by rw [exec_captureFall, captureFall_eq]⟩

/-- Settles O20: the setup step as one update of the state, the phase cell holding the seed. -/
theorem echoSetupArmsUnit : Obligations.EchoSetupArmsUnit :=
  ⟨rfl, fun s => by rw [exec_echoSetup, echoSetup_eq, phaseSeed]⟩

/-- Settles O21: the step is its own inverse (`echoRun_echoRun`). -/
theorem echoRunTogglesTrigger : Obligations.EchoRunTogglesTrigger := by
  refine ⟨rfl, fun s => by rw [exec_echoRun, echoRun], fun s t h => ?_⟩
  obtain rfl : echoRun s = t := by simpa [exec_echoRun] using h
  rw [exec_echoRun, echoRun_echoRun]

/-- Settles O60: multiplying by the numerator and dividing by the denominator both keep the order. -/
theorem distScalesMonotonically : Obligations.DistScalesMonotonically :=
  fun c => ⟨fun _ => rfl, c.distDen.one_le, pulseDistance_zero c,
    fun _ _ h => pulseDistance_le_of_le c h⟩

end Machine

end Sys2Proof

/-! ## The dispatcher family: `QUANTUM`, `DISPATCH`, `STEP`, `FATAL` and the frozen state
(R162 to R167)

`STEP` and `DISPATCH` are both `iterate` (`exec_step_index`, `exec_dispatch_of_highest`), and the
step that `iterate` runs is the instruction the loop-state word decodes to (`exec_decodeLoopState`).
A frozen block is restarted (`Restarts`) or left with everything the loops own as it was
(`LoopsUntouched`). -/

namespace Sys2Proof

/-! ### The words of the dispatcher's operations (R83) -/

theorem decode_make_quantum (idx rsv : BitVec 4) (imm : Word) :
    decode (.opw (OpWord.make 0 3 idx rsv imm)) =
      fixedZero (rsv == 0#4 && idx == 0#4 && imm == 0#16) .quantum := by
  simp [decode, decodeOpw]

theorem decode_make_dispatch (idx rsv : BitVec 4) (imm : Word) :
    decode (.opw (OpWord.make 2 0 idx rsv imm)) =
      fixedZero (rsv == 0#4 && idx == 0#4 && imm == 0#16) .dispatch := by
  simp [decode, decodeOpw]

theorem decode_make_step (l rsv : BitVec 4) (imm : Word) :
    decode (.opw (OpWord.make 2 1 l rsv imm)) =
      fixedZero (rsv == 0#4 && imm == 0#16) (.step l) := by
  simp [decode, decodeOpw]

/-- A row without operands does not select a word with any field below its operation set. -/
theorem fixedZero_all_eq_error {idx rsv : BitVec 4} {imm : Word}
    (h : idx ≠ 0#4 ∨ rsv ≠ 0#4 ∨ imm ≠ 0#16) (i : Instr) :
    fixedZero (rsv == 0#4 && idx == 0#4 && imm == 0#16) i = .error .reservedEncoding := by
  rw [fixedZero_eq_error]
  simpa [imp_iff_not_or, or_assoc, or_left_comm] using h

/-! ### Index fields that name a cell -/

theorem CellId.eq_index_of_ofIndex {c : BitVec 4} {cell : CellId}
    (h : CellId.ofIndex c = some cell) : c = cell.index := by
  rcases CellId.ofIndex_cases c with ⟨cell', hc, rfl, -⟩ | ⟨hnone, -⟩
  · rw [hc] at h
    rw [Option.some.inj h]
  · simp [hnone] at h

/-! ### The rows of the loop-state map, loop by loop (R84) -/

theorem decodeLoopState_echo (v : Byte) :
    decodeLoopState .echo v =
      if v.toNat = 0 then .echoSetup
      else if v.toNat = 1 then .echoRun
      else .fatal .echo v := by
  unfold decodeLoopState
  rcases v.toNat with _ | _ | n <;> simp

theorem decodeLoopState_car (v : Byte) :
    decodeLoopState .car v =
      if v.toNat = 0 then .carInit
      else if v.toNat = 1 then .carDriving
      else if v.toNat = 2 then .carStopped
      else if v.toNat = 3 then .carAvoid
      else .fatal .car v := by
  unfold decodeLoopState
  rcases v.toNat with _ | _ | _ | _ | n <;> simp

theorem decodeLoopState_motor (v : Byte) :
    decodeLoopState .motor v =
      if v.toNat = 0 then .motorSetup
      else if v.toNat = 1 then .motorRun
      else .fatal .motor v := by
  unfold decodeLoopState
  rcases v.toNat with _ | _ | n <;> simp

theorem decodeLoopState_steer (v : Byte) :
    decodeLoopState .steer v =
      if v.toNat = 0 then .steerSetup
      else if v.toNat = 1 then .steerRun
      else .fatal .steer v := by
  unfold decodeLoopState
  rcases v.toNat with _ | _ | n <;> simp

namespace Machine

/-! ### `QUANTUM` (R162) -/

theorem countDown_eq_ofNat (v : Word) : countDown v = BitVec.ofNat 16 (v.toNat - 1) := by
  apply BitVec.eq_of_toNat_eq
  have := v.isLt
  rw [countDown_toNat, BitVec.toNat_ofNat, Nat.mod_eq_of_lt (by omega)]

theorem exec_quantum (s : State) : exec .quantum s = .next (quantum s) := rfl

/-- A quantum at which the watchdog does not expire counts down and does nothing else. -/
theorem quantum_of_running {s : State} (h : s.wdtArmed = false ∨ 2 ≤ s.wdtCnt.toNat) :
    quantum s =
      { s with
        wake := s.wake.map countDown
        wdtCnt := if s.wdtArmed then countDown s.wdtCnt else s.wdtCnt } := by
  rcases quantum_cases s with ⟨hoff, e⟩ | ⟨hon, -, e⟩ | ⟨hon, hle, -⟩
  · simp [e, hoff]
  · simp [e, hon]
  · rcases h with hoff | hge
    · simp [hon] at hoff
    · omega

theorem quantum_of_expiring {s : State} (hon : s.wdtArmed = true) (hle : s.wdtCnt.toNat ≤ 1) :
    quantum s = doReset s :=
  quantum_of_expires (by simp [watchdogExpires, hon, hle])

/-! ### `STEP` and `FATAL` (R164 to R166) -/

/-- The step that `body(L)` runs is the instruction that the loop-state word decodes to, `FATAL`
included (R84, R165). -/
theorem exec_decodeLoopState (l : LoopId) (s : State) :
    exec (decodeLoopState l (s.st.get l)) s = .next (body l s).2 := by
  cases l with
  | echo =>
    change exec (decodeLoopState .echo s.st.echo) s = _
    rw [decodeLoopState_echo, body_echo]
    split_ifs <;> rfl
  | car =>
    change exec (decodeLoopState .car s.st.car) s = _
    rw [decodeLoopState_car, body_car]
    split_ifs <;> rfl
  | motor =>
    change exec (decodeLoopState .motor s.st.motor) s = _
    rw [decodeLoopState_motor, body_motor]
    split_ifs <;> rfl
  | steer =>
    change exec (decodeLoopState .steer s.st.steer) s = _
    rw [decodeLoopState_steer, body_steer]
    split_ifs <;> rfl

theorem exec_fatal (l : LoopId) (v : Byte) (s : State) :
    exec (.fatal l v) s = .next (fatalResult s l v) := rfl

theorem iterate_of_recognised {l : LoopId} {s : State} (h : l.recognises (s.st.get l) = true) :
    iterate l s = setWake l (s.cfg.period.get l).val (body l s).2 := by
  rcases iterate_cases l s with ⟨-, e⟩ | ⟨hunrec, -⟩
  · exact e
  · simp [h] at hunrec

theorem iterate_of_unrecognised {l : LoopId} {s : State}
    (h : l.recognises (s.st.get l) = false) : iterate l s = fatalResult s l (s.st.get l) := by
  rcases iterate_cases l s with ⟨hrec, -⟩ | ⟨-, e⟩
  · simp [h] at hrec
  · exact e

theorem exec_step_index {s : State} (hf : s.fatalF = false) (l : LoopId) :
    exec (.step l.index) s = .next (iterate l s) := by
  simp [exec, execStep, frozen, hf]

theorem exec_step_index_of_frozen {s : State} (hf : s.fatalF = true) (l : LoopId) :
    exec (.step l.index) s = .refused .notEnabled := by
  simp [exec, execStep, frozen, hf]

/-- An id that names no loop is refused as `BadIndex` even while frozen (R213), so this asks for a
loop. -/
theorem exec_step_of_frozen {l : BitVec 4} {s : State} (hl : l.toNat < 4) (hf : s.fatalF = true) :
    exec (.step l) s = .refused .notEnabled := by
  rcases LoopId.ofIndex_cases l with ⟨loop, -, rfl, -⟩ | ⟨-, hge⟩
  · exact exec_step_index_of_frozen hf loop
  · omega

/-! ### `DISPATCH` (R163) -/

theorem exec_dispatch_of_frozen {s : State} (hf : s.fatalF = true) :
    exec .dispatch s = .next s := by
  simp [exec, execDispatch, dispatch, frozen, hf]

theorem exec_dispatch_of_idle {s : State} (h : ∀ l : LoopId, s.wake.get l ≠ 0#16) :
    exec .dispatch s = .next s := by
  rcases dispatch_cases s with ⟨-, e⟩ | ⟨-, -, e⟩ | ⟨l, -, hready, -⟩
  · exact congrArg Host.Outcome.next e
  · exact congrArg Host.Outcome.next e
  · exact absurd (BitVec.eq_of_toNat_eq hready) (h l)

theorem exec_dispatch_of_highest {l : LoopId} {s : State} (hf : s.fatalF = false)
    (hready : s.wake.get l = 0#16)
    (hmax : ∀ m : LoopId, s.wake.get m = 0#16 → LoopId.prio m ≤ LoopId.prio l) :
    exec .dispatch s = .next (iterate l s) := by
  have e : dispatch s = iterate l s :=
    dispatch_of_highest hf (by simp [hready]) fun m hm => hmax m (BitVec.eq_of_toNat_eq hm)
  exact congrArg Host.Outcome.next e

/-- A recognised loop-state step does not freeze the block (R165). -/
theorem LoopStep.fatalF_eq {s u : State} {l : LoopId} (e : LoopStep s l u) :
    u.fatalF = s.fatalF := by
  cases e with
  | enterCar n => rw [enterCar_eq]
  | echoSetup | echoRun | motorSetup | motorRun | steerSetup | steerRun => rfl

theorem iterate_fatalF_of_recognised {l : LoopId} {s : State}
    (h : l.recognises (s.st.get l) = true) : (iterate l s).fatalF = s.fatalF := by
  rw [iterate_of_recognised h]
  exact (loopStep_body h).fatalF_eq

/-! ### The frozen state (R167) -/

/-- The operation restarts the block: `RESET`, or a quantum at which the watchdog expires. -/
abbrev Restarts (i : Instr) (s : State) : Prop :=
  i = .reset ∨ (i = .quantum ∧ s.wdtArmed = true ∧ s.wdtCnt.toNat ≤ 1)

theorem exec_of_restarts {i : Instr} {s : State} (h : Restarts i s) :
    exec i s = .next (doReset s) := by
  rcases h with rfl | ⟨rfl, hon, hle⟩
  · rfl
  · rw [exec_quantum, quantum_of_expiring hon hle]

/-- What only the loops and a restart write: the loop states, the trigger, both latches, the
diagnostic records and the freeze itself. -/
structure LoopsUntouched (s t : State) : Prop where
  fatalF : t.fatalF = s.fatalF
  st : t.st = s.st
  trig : t.trig = s.trig
  motorOut : t.motorOut = s.motorOut
  steerOut : t.steerOut = s.steerOut
  diag : t.diag = s.diag

theorem loopsUntouched_writeCell (c : CellId) (v : BitVec c.width) (s : State) :
    LoopsUntouched s (writeCell c v s) := by
  constructor <;> simp

theorem loopsUntouched_captureHandler (s : State) : LoopsUntouched s (captureHandler s) := by
  rcases captureHandler_cases s with ⟨_, e⟩ | ⟨_, e⟩ <;> rw [e] <;> constructor <;> rfl

/-- A loop runs only in a block that is not frozen, so an operation on a frozen one restarts it or
leaves alone what the loops own (R167). -/
theorem restarts_or_loopsUntouched {i : Instr} {s t : State} (hf : s.fatalF = true)
    (hi : i.format = .opw) (h : exec i s = .next t) : Restarts i s ∨ LoopsUntouched s t := by
  rcases exec_opw_next_cases hi h with
    ⟨rfl, -⟩ | ⟨_, -, -, rfl⟩ | ⟨_, -, -, rfl⟩ | ⟨_, _, -, -, rfl⟩ | ⟨rfl, rfl⟩ |
    ⟨_, _, -, -, rfl⟩ | ⟨_, _, cell, x, -, -, -, -, rfl⟩ | ⟨-, rfl⟩ |
    ⟨_, -, hruns, -⟩ | ⟨-, -, -, -, rfl⟩
  · exact .inl (.inl rfl)
  · exact .inr ⟨rfl, rfl, rfl, rfl, rfl, rfl⟩
  · exact .inr ⟨rfl, rfl, rfl, rfl, rfl, rfl⟩
  · exact .inr ⟨rfl, rfl, rfl, rfl, rfl, rfl⟩
  · rcases quantum_cases s with ⟨-, e⟩ | ⟨-, -, e⟩ | ⟨hon, hle, -⟩
    · exact .inr (e ▸ ⟨rfl, rfl, rfl, rfl, rfl, rfl⟩)
    · exact .inr (e ▸ ⟨rfl, rfl, rfl, rfl, rfl, rfl⟩)
    · exact .inl (.inr ⟨rfl, hon, hle⟩)
  · exact .inr ⟨rfl, rfl, rfl, rfl, rfl, rfl⟩
  · exact .inr (loopsUntouched_writeCell cell x s)
  · exact .inr ⟨rfl, rfl, rfl, rfl, rfl, rfl⟩
  · simp [hf] at hruns
  · exact .inr (loopsUntouched_captureHandler s)

theorem not_restarts_of_frozen {i : Instr} {s t : State} (h : exec i s = .next t)
    (hf : t.fatalF = true) : ¬ Restarts i s := by
  intro hr
  obtain rfl : doReset s = t := by simpa [exec_of_restarts hr] using h
  simp at hf

/-! ### Which operations look at `FATAL_F` (R167) -/

theorem readCell_withFatalF (c : CellId) (s : State) (f : Bool) :
    readCell c { s with fatalF := f } = readCell c s := by
  cases c <;> rfl

theorem writeCell_withFatalF (c : CellId) (v : BitVec c.width) (s : State) (f : Bool) :
    writeCell c v { s with fatalF := f } = { writeCell c v s with fatalF := f } := by
  cases c <;> rfl

theorem captureHandler_withFatalF (s : State) (f : Bool) :
    captureHandler { s with fatalF := f } = { captureHandler s with fatalF := f } := by
  rcases captureHandler_cases s with ⟨hzero, e⟩ | ⟨hne, e⟩ <;> rw [e]
  · exact captureHandler_of_phase_zero (s := { s with fatalF := f }) hzero
  · exact captureHandler_of_phase_ne_zero (s := { s with fatalF := f }) hne

/-- `DISPATCH` and `STEP` apart, an operation that does not restart the block does not look at the
freeze (R167). -/
theorem exec_withFatalF {i : Instr} {s t : State} (hf : s.fatalF = true) (hi : i.format = .opw)
    (hdisp : i ≠ .dispatch) (hrestart : ¬ Restarts i s) (h : exec i s = .next t) (f : Bool) :
    exec i { s with fatalF := f } = .next { t with fatalF := f } := by
  rcases exec_opw_next_cases hi h with
    ⟨rfl, -⟩ | ⟨n, rfl, harmed, rfl⟩ | ⟨n, rfl, hidle, rfl⟩ | ⟨v, level, rfl, hlevel, rfl⟩ |
    ⟨rfl, rfl⟩ | ⟨c, cell, rfl, hc, rfl⟩ | ⟨c, v, cell, x, rfl, hc, hx, hown, rfl⟩ | ⟨rfl, -⟩ |
    ⟨_, -, hruns, -⟩ | ⟨rfl, hcapf, hcapie, hie, rfl⟩
  · exact absurd (.inl rfl) hrestart
  · exact exec_tick_of_armed (s := { s with fatalF := f }) harmed n
  · exact exec_tick_of_not_armed (s := { t with fatalF := f }) hidle n
  · simp [exec, execEdge, hlevel]
  · have hrun : s.wdtArmed = false ∨ 2 ≤ s.wdtCnt.toNat := by
      rcases quantum_cases s with ⟨hoff, -⟩ | ⟨-, hge, -⟩ | ⟨hon, hle, -⟩
      · exact .inl hoff
      · exact .inr hge
      · exact absurd (.inr ⟨rfl, hon, hle⟩) hrestart
    rw [exec_quantum, quantum_of_running hrun,
      quantum_of_running (s := { s with fatalF := f }) hrun]
  · obtain rfl := CellId.eq_index_of_ofIndex hc
    rw [exec_get_index, readCell_withFatalF]
  · obtain rfl := CellId.eq_index_of_ofIndex hc
    rw [exec_put_index (s := { s with fatalF := f }) hx hown, writeCell_withFatalF]
  · exact absurd rfl hdisp
  · simp [hf] at hruns
  · rw [exec_capture_of_enabled (s := { s with fatalF := f }) hcapf hcapie hie,
      captureHandler_withFatalF]

/-! ### The obligations -/

/-- Settles O35: a frozen block is restarted or left as the loops had it
(`restarts_or_loopsUntouched`), and no other operation looks at the freeze (`exec_withFatalF`). -/
theorem frozenBlockRunsNoLoop : Obligations.FrozenBlockRunsNoLoop := by
  refine ⟨fun s hf => exec_dispatch_of_frozen hf, fun s l hf => exec_step_index_of_frozen hf l,
    fun s t i hf hi h hf' => ?_, fun s t i hf hi h hf' => ?_, fun s t i hf hi hdisp h hf' =>
      exec_withFatalF hf hi hdisp (not_restarts_of_frozen h hf') h false⟩
  · rcases restarts_or_loopsUntouched hf hi h with hr | ⟨-, hst, htrig, hmotor, hsteer, hdiag⟩
    · exact absurd hr (not_restarts_of_frozen h hf')
    · exact ⟨hst, htrig, hmotor, hsteer, hdiag⟩
  · rcases restarts_or_loopsUntouched hf hi h with hr | ⟨hkept, -⟩
    · exact hr
    · simp [hf, hf'] at hkept

/-- Settles O32: `STEP` is one iteration, whose step is the decoded instruction
(`exec_decodeLoopState`). -/
theorem stepRunsDecodedLoopState : Obligations.StepRunsDecodedLoopState := by
  refine ⟨fun l => decode_make_step l 0 0, fun l rsv imm h => ?_,
    fun l s hl => exec_step_badIndex hl s, fun l s hl hf => exec_step_of_frozen hl hf,
    fun l s hf hrec => ?_, fun l s hf hunrec => ?_⟩
  · rw [decode_make_step, fixedZero_eq_error]
    simpa [imp_iff_not_or] using h
  · refine ⟨_, _, decode_form l (s.st.get l), exec_decodeLoopState l s, ?_⟩
    rw [exec_step_index hf, iterate_of_recognised hrec, setWake]
  · rw [exec_step_index hf, iterate_of_unrecognised hunrec]

/-- Settles O33: `DISPATCH` and `STEP` of the loop it chooses are the same iteration, which freezes
the block only on an unrecognised state. -/
theorem dispatchRunsHighestReady : Obligations.DispatchRunsHighestReady := by
  refine ⟨rfl, fun idx rsv imm h => ?_, ⟨rfl, rfl, rfl, rfl⟩,
    fun s hf => exec_dispatch_of_frozen hf, fun s hidle => exec_dispatch_of_idle hidle,
    fun l s hf hready hmax => ⟨fun hrec => ?_, fun hunrec => ?_⟩⟩
  · rw [decode_make_dispatch, fixedZero_all_eq_error h]
  · exact ⟨iterate l s, exec_step_index hf l, exec_dispatch_of_highest hf hready hmax,
      (iterate_fatalF_of_recognised hrec).trans hf⟩
  · rw [exec_dispatch_of_highest hf hready hmax, iterate_of_unrecognised hunrec]

/-- Settles O8: the counters go down while the watchdog does not expire, and at its expiry the
quantum is the restart. -/
theorem quantumCountsDown : Obligations.QuantumCountsDown := by
  refine ⟨rfl, fun idx rsv imm h => ?_, fun s hrun => ?_, fun s hon hle => ?_⟩
  · rw [decode_make_quantum, fixedZero_all_eq_error h]
  · simp only [exec_quantum, quantum_of_running hrun, LoopBank.map, countDown_eq_ofNat]
  · exact exec_of_restarts (.inr ⟨rfl, hon, hle⟩)

/-- Settles O34: a word that names no recognised state decodes to `FATAL`, whose effect is
`fatalResult`. -/
theorem fatalLogsArmsAndFreezes : Obligations.FatalLogsArmsAndFreezes :=
  ⟨fun l v h => by rw [decode_form, decodeLoopState_of_unrecognised h], exec_fatal⟩

end Machine

end Sys2Proof

/-! ## The arbitration family: the four steps of the CAR loop (R181 to R184)

Each step enters one car-control state, which the command chooses (`nextFromStopped`,
`nextFromDriving`, `nextFromAvoid`); what entering a state leaves is said once for each state. -/

namespace Sys2Proof.Machine

open Sys2Proof

/-! ### The state that the command chooses (R182 to R184) -/

theorem nextFromStopped_of_drive {cmd : Byte} (h : cmd = cmdDrive) :
    nextFromStopped cmd = .driving := if_pos h

theorem nextFromStopped_of_avoid {cmd : Byte} (h : cmd = cmdAvoid) :
    nextFromStopped cmd = .avoid := by
  subst h; rfl

theorem nextFromStopped_of_ne {cmd : Byte} (hdrive : cmd ≠ cmdDrive) (havoid : cmd ≠ cmdAvoid) :
    nextFromStopped cmd = .stopped := by
  rw [nextFromStopped, if_neg hdrive, if_neg havoid]

theorem nextFromDriving_of_stop {cmd : Byte} (h : cmd = cmdStop) :
    nextFromDriving cmd = .stopped := if_pos h

theorem nextFromDriving_of_ne {cmd : Byte} (h : cmd ≠ cmdStop) : nextFromDriving cmd = .driving :=
  if_neg h

theorem nextFromAvoid_of_stop {cmd : Byte} (h : cmd = cmdStop) :
    nextFromAvoid cmd = .stopped := if_pos h

theorem nextFromAvoid_of_ne {cmd : Byte} (h : cmd ≠ cmdStop) : nextFromAvoid cmd = .avoid :=
  if_neg h

/-! ### What entering a state leaves (R185, R186) -/

theorem enterCar_stopped (s : State) :
    enterCar .stopped s =
      { s with
        st := { s.st with car := 2#8 }
        cells := { s.cells with motorSp := 0#16, steerSp := 0#16 } } :=
  enterCar_eq .stopped s

theorem enterCar_driving (s : State) :
    enterCar .driving s =
      { s with
        st := { s.st with car := 1#8 }
        cells := { s.cells with motorSp := s.cfg.motorFwd.val, steerSp := 0#16 } } :=
  enterCar_eq .driving s

/-- A width below the threshold is close: the car deflects. -/
theorem enterCar_avoid_of_close {s : State} (h : s.cells.pulseWidth.toNat < 150) :
    enterCar .avoid s =
      { s with
        st := { s.st with car := 3#8 }
        cells := { s.cells with
          motorSp := s.cfg.avoidMotorClose, steerSp := s.cfg.steerDeflect.val } } := by
  rw [enterCar_eq, setpointsOf, if_pos h, CarState.code]

/-- The threshold itself is clear (R186). -/
theorem enterCar_avoid_of_clear {s : State} (h : 150 ≤ s.cells.pulseWidth.toNat) :
    enterCar .avoid s =
      { s with
        st := { s.st with car := 3#8 }
        cells := { s.cells with motorSp := s.cfg.avoidMotorClear, steerSp := 0#16 } } := by
  rw [enterCar_eq, setpointsOf, if_neg (not_lt.2 h), CarState.code]

/-! ### The four steps (R180, R181) -/

theorem exec_carInit (s : State) : exec .carInit s = .next (enterCar .stopped s) := rfl

theorem exec_carStopped (s : State) :
    exec .carStopped s = .next (enterCar (nextFromStopped s.cells.driveCmd) s) :=
  congrArg Host.Outcome.next (carStep_eq nextFromStopped s)

theorem exec_carDriving (s : State) :
    exec .carDriving s = .next (enterCar (nextFromDriving s.cells.driveCmd) s) :=
  congrArg Host.Outcome.next (carStep_eq nextFromDriving s)

theorem exec_carAvoid (s : State) :
    exec .carAvoid s = .next (enterCar (nextFromAvoid s.cells.driveCmd) s) :=
  congrArg Host.Outcome.next (carStep_eq nextFromAvoid s)

/-! ### The obligations -/

/-- Settles O22: the step enters `stopped`, whatever the command. -/
theorem carInitStops : Obligations.CarInitStops :=
  ⟨rfl, fun s => by rw [exec_carInit, enterCar_stopped]⟩

/-- Settles O23: the command chooses one of the three states, and on the way to obstacle-avoid the
width read in the same step chooses the setpoints. -/
theorem carStoppedObeysCommand : Obligations.CarStoppedObeysCommand := by
  refine ⟨rfl, fun s hdrive => ?_, fun s havoid => ?_, fun s hdrive havoid => ?_⟩
  · rw [exec_carStopped, nextFromStopped_of_drive hdrive, enterCar_driving]
  · rw [exec_carStopped, nextFromStopped_of_avoid havoid]
    by_cases hclose : s.cells.pulseWidth.toNat < 150
    · simp only [enterCar_avoid_of_close hclose, if_pos hclose]
    · simp only [enterCar_avoid_of_clear (not_lt.1 hclose), if_neg hclose]
  · rw [exec_carStopped, nextFromStopped_of_ne hdrive havoid, enterCar_stopped]

/-- Settles O24: only the command chooses the state that `CAR.DRIVING` enters. -/
theorem carDrivingStopsOnZero : Obligations.CarDrivingStopsOnZero := by
  refine ⟨rfl, fun s hstop => ?_, fun s hgo => ?_⟩
  · rw [exec_carDriving, nextFromDriving_of_stop hstop, enterCar_stopped]
  · rw [exec_carDriving, nextFromDriving_of_ne hgo, enterCar_driving]

/-- Settles O25: every command but 0 stays in obstacle-avoid, where 149 is the last width on the
close side of the threshold. -/
theorem carAvoidComparesWidth : Obligations.CarAvoidComparesWidth := by
  refine ⟨rfl, fun s hstop => ?_, fun s hgo hclose => ?_, fun s hgo hclear => ?_⟩
  · rw [exec_carAvoid, nextFromAvoid_of_stop hstop, enterCar_stopped]
  · rw [exec_carAvoid, nextFromAvoid_of_ne hgo, enterCar_avoid_of_close (Nat.lt_succ_of_le hclose)]
  · rw [exec_carAvoid, nextFromAvoid_of_ne hgo, enterCar_avoid_of_clear hclear]

end Sys2Proof.Machine

/-! ## The actuation family: the steps of the MOTOR and STEER loops (R200 to R203)

The masked read leaves the state as it was (`motorRun_eq`, `steerRun_eq`), so each step is one record
update. -/

namespace Sys2Proof.Machine

open Sys2Proof

/-! ### The setup steps as one record update each (R200, R202) -/

theorem motorSetup_eq (s : State) :
    motorSetup s = { s with st := { s.st with motor := 1#8 } } := rfl

theorem steerSetup_eq (s : State) :
    steerSetup s = { s with st := { s.st with steer := 1#8 } } := rfl

/-! ### The four steps as instructions -/

theorem exec_motorSetup (s : State) : exec .motorSetup s = .next (motorSetup s) := rfl

theorem exec_motorRun (s : State) : exec .motorRun s = .next (motorRun s) := rfl

theorem exec_steerSetup (s : State) : exec .steerSetup s = .next (steerSetup s) := rfl

theorem exec_steerRun (s : State) : exec .steerRun s = .next (steerRun s) := rfl

/-! ### The obligations -/

/-- Settles O30: the setup step updates `ST[MOTOR]` alone, and the run step updates the latch alone,
since reading `MOTOR_SP` leaves the state as it was. -/
theorem motorLoopReadsSetpoint : Obligations.MotorLoopReadsSetpoint :=
  ⟨rfl, rfl, fun s => by rw [exec_motorSetup, motorSetup_eq],
    fun s => by rw [exec_motorRun, motorRun_eq]⟩

/-- Settles O31: as O30, with `ST[STEER]`, `STEER_SP` and the steering latch. -/
theorem steerLoopReadsSetpoint : Obligations.SteerLoopReadsSetpoint :=
  ⟨rfl, rfl, fun s => by rw [exec_steerSetup, steerSetup_eq],
    fun s => by rw [exec_steerRun, steerRun_eq]⟩

end Sys2Proof.Machine

/-! ## The exceptions family: the outcome of every word (R213)

One lemma per refusal reason, in the order of R213: where the reason applies and none before it
does, `exec` refuses with it; where none applies, `exec` answers a next state. -/

namespace Sys2Proof

/-! ### Index fields in range -/

theorem CellId.exists_eq_index_of_lt {c : BitVec 4} (h : c.toNat < 5) :
    ∃ cell : CellId, c = cell.index := by
  obtain ⟨cell, hcell⟩ := CellId.exists_ofIndex_of_lt h
  exact ⟨cell, CellId.eq_index_of_ofIndex hcell⟩

theorem LoopId.exists_eq_index_of_lt {l : BitVec 4} (h : l.toNat < 4) :
    ∃ loop : LoopId, l = loop.index := by
  rcases LoopId.ofIndex_cases l with ⟨loop, -, hl, -⟩ | ⟨-, hge⟩
  · exact ⟨loop, hl⟩
  · omega

namespace Machine

/-! ### Operands, in range or not (R82) -/

theorem edgeLevel_eq_none_iff {v : Word} : edgeLevel v = none ↔ 2 ≤ v.toNat := by
  refine ⟨fun h => ?_, edgeLevel_eq_none⟩
  by_contra hlt
  rw [edgeLevel, if_pos (extractLsb'_eq_zero (k := 1) (by omega))] at h
  cases h

/-- The operand of a `PUT` is out of range exactly where it is no value of the cell's type. -/
theorem operandRangeApplies_put_index (cell : CellId) (v : Word) :
    operandRangeApplies (.put cell.index v) = true ↔ putValue cell v = none := by
  cases cell with
  | edgePhase | driveCmd =>
    by_cases hv : v.toNat < 256
    · simp [operandRangeApplies, CellId.index, putValue_edgePhase hv, putValue_driveCmd hv, hv]
    · have hge : 256 ≤ v.toNat := by omega
      simp [operandRangeApplies, CellId.index, putValue_edgePhase_eq_none hge,
        putValue_driveCmd_eq_none hge, hge]
  | pulseWidth | motorSp | steerSp => simp [operandRangeApplies, CellId.index, putValue]

/-! ### The refusal of each reason, in the order of R213 -/

theorem exec_of_badIndex {i : Instr} (h : badIndexApplies i = true) (s : State) :
    exec i s = .refused .badIndex := by
  cases i with
  | get c | getIsr c => exact exec_cell_badIndex (of_decide_eq_true h) 0 s _ (by simp)
  | put c v | putIsr c v => exact exec_cell_badIndex (of_decide_eq_true h) v s _ (by simp)
  | step l => exact exec_step_badIndex (of_decide_eq_true h) s
  | _ => simp [badIndexApplies] at h

theorem exec_of_contractViolation {i : Instr} (hidx : badIndexApplies i = false)
    (h : contractViolationApplies i = true) (s : State) :
    exec i s = .refused .contractViolation := by
  cases i with
  | getIsr c => exact exec_getIsr_of_lt (Nat.lt_of_not_le (of_decide_eq_false hidx)) s
  | putIsr c v => exact exec_putIsr_of_lt (Nat.lt_of_not_le (of_decide_eq_false hidx)) v s
  | _ => simp [contractViolationApplies] at h

theorem exec_of_operandRange {i : Instr} (hidx : badIndexApplies i = false)
    (h : operandRangeApplies i = true) (s : State) : exec i s = .refused .operandRange := by
  cases i with
  | put c v =>
    have hlt : c.toNat < 5 := Nat.lt_of_not_le (of_decide_eq_false hidx)
    obtain ⟨cell, rfl⟩ := CellId.exists_eq_index_of_lt hlt
    exact exec_put_operandRange (CellId.ofIndex_index cell)
      ((operandRangeApplies_put_index cell v).1 h) s
  | edge v => exact exec_edge_operandRange (of_decide_eq_true h) s
  | _ => simp [operandRangeApplies] at h

theorem exec_of_notEnabled {i : Instr} {s : State} (hidx : badIndexApplies i = false)
    (h : notEnabledApplies i s = true) : exec i s = .refused .notEnabled := by
  cases i with
  | capture => exact exec_capture_of_disabled ((Bool.not_eq_true' _).mp h)
  | step l => exact exec_step_of_frozen (Nat.lt_of_not_le (of_decide_eq_false hidx)) h
  | _ => simp [notEnabledApplies] at h

/-- Where no reason of R213 applies and the flag of U4 is clear (log 4), the operation has a
meaning. -/
theorem exec_next_of_no_reason {i : Instr} {s : State} (hflag : s.extWritesOnlyCmd = false)
    (hidx : badIndexApplies i = false) (hcontract : contractViolationApplies i = false)
    (hrange : operandRangeApplies i = false) (hen : notEnabledApplies i s = false) :
    ∃ t, exec i s = .next t := by
  cases i with
  | edge v =>
    have hlevel : edgeLevel v ≠ none := by
      simpa [edgeLevel_eq_none_iff, operandRangeApplies] using hrange
    obtain ⟨level, hlevel⟩ := Option.ne_none_iff_exists'.1 hlevel
    exact ⟨_, exec_edge_of_level hlevel s⟩
  | get c =>
    have hlt : c.toNat < 5 := Nat.lt_of_not_le (of_decide_eq_false hidx)
    obtain ⟨cell, rfl⟩ := CellId.exists_eq_index_of_lt hlt
    exact ⟨_, exec_get_index cell s⟩
  | put c v =>
    have hlt : c.toNat < 5 := Nat.lt_of_not_le (of_decide_eq_false hidx)
    obtain ⟨cell, rfl⟩ := CellId.exists_eq_index_of_lt hlt
    have hvalue : putValue cell v ≠ none := by
      simp [← operandRangeApplies_put_index, hrange]
    obtain ⟨x, hx⟩ := Option.ne_none_iff_exists'.1 hvalue
    exact ⟨_, exec_put_index_of_flag_clear hx hflag⟩
  | getIsr c | putIsr c v => simp [contractViolationApplies] at hcontract
  | step l =>
    have hlt : l.toNat < 4 := Nat.lt_of_not_le (of_decide_eq_false hidx)
    obtain ⟨loop, rfl⟩ := LoopId.exists_eq_index_of_lt hlt
    exact ⟨_, exec_step_index hen loop⟩
  | capture =>
    obtain ⟨⟨hcapf, hcapie⟩, hie⟩ : (s.capf = true ∧ s.capie = true) ∧ s.ie = true := by
      simpa [notEnabledApplies, and_assoc] using hen
    exact ⟨_, exec_capture_of_enabled hcapf hcapie hie⟩
  | _ => exact ⟨_, rfl⟩

/-! ### The first reason that applies -/

theorem exec_of_firstRefusal {i : Instr} {r : Refusal} {s : State}
    (h : firstRefusal i s = some r) : exec i s = .refused r := by
  unfold firstRefusal at h
  split_ifs at h with hidx hcontract hrange hen <;> cases h
  · exact exec_of_badIndex hidx s
  · exact exec_of_contractViolation (by simpa using hidx) hcontract s
  · exact exec_of_operandRange (by simpa using hidx) hrange s
  · exact exec_of_notEnabled (by simpa using hidx) hen

theorem exec_next_of_firstRefusal_eq_none {i : Instr} {s : State}
    (hflag : s.extWritesOnlyCmd = false) (h : firstRefusal i s = none) :
    ∃ t, exec i s = .next t := by
  unfold firstRefusal at h
  split_ifs at h with hidx hcontract hrange hen
  exact exec_next_of_no_reason hflag (by simpa using hidx) (by simpa using hcontract)
    (by simpa using hrange) (by simpa using hen)

/-- No reason depends on the trace or on the result of the operation before. -/
@[simp] theorem firstRefusal_takeWord (i : Instr) (rest : List OpWord) (s : State) :
    firstRefusal i (takeWord rest s) = firstRefusal i s := rfl

/-! ### The step on a word (R10, R91) -/

theorem step_of_decode_error {s : State} {w : OpWord} {rest : List OpWord} {e : DecodeError}
    (hs : s.trace = w :: rest) (hd : decode (.opw w) = .error e) :
    step s = .refused .reservedEncoding := by
  cases e <;> simp [step, hs, hd, refusalOf]

theorem step_of_decode_ok {s : State} {w : OpWord} {rest : List OpWord} {i : Instr}
    (hs : s.trace = w :: rest) (hd : decode (.opw w) = .ok i) :
    step s = exec i (takeWord rest s) := by
  simp [step, hs, hd]

/-! ### The obligation -/

/-- Settles O47: a word that does not decode is refused by the step, and a decoded one by its first
reason (`exec_of_firstRefusal`), or it runs (`exec_next_of_firstRefusal_eq_none`). -/
theorem outcomeOfEveryWord : Obligations.OutcomeOfEveryWord := by
  intro s w rest hs hflag
  refine ⟨fun e hd => step_of_decode_error hs hd, fun i r hd hr => ?_, fun i hd hnone => ?_⟩
  · rw [step_of_decode_ok hs hd]
    exact exec_of_firstRefusal (by simpa using hr)
  · rw [step_of_decode_ok hs hd]
    exact exec_next_of_firstRefusal_eq_none hflag (by simpa using hnone)

end Machine

end Sys2Proof

/-! ## The reset family: `RESET` (R240, R241)

`do_reset()` is the power-on state of the same parameters with what it keeps put back
(`doReset_eq_powerOn`). -/

namespace Sys2Proof

/-! ### The word of `RESET` (R83) -/

theorem decode_make_reset (idx rsv : BitVec 4) (imm : Word) :
    decode (.opw (OpWord.make 0 0 idx rsv imm)) =
      fixedZero (rsv == 0#4 && idx == 0#4 && imm == 0#16) .reset := by
  simp [decode, decodeOpw]

namespace Machine

/-! ### `do_reset()` and the power-on state (R45, R240) -/

/-- Of the state before, `do_reset()` keeps `ECHO_IN` and `DIAG` (R241) and the model's own fields
(log 16); the rest it writes as at power-on. -/
theorem doReset_eq_powerOn (s : State) :
    doReset s = { State.powerOn s.cfg with
      echoIn := s.echoIn, diag := s.diag, extWritesOnlyCmd := s.extWritesOnlyCmd
      trace := s.trace, result := s.result } := rfl

theorem exec_reset (s : State) : exec .reset s = .next (doReset s) := rfl

/-! ### The obligation -/

/-- Settles O1: the row of `RESET` fixes every field to zero, and its execution is `do_reset()`, with
no case on the state. -/
theorem resetWritesResetTable : Obligations.ResetWritesResetTable := by
  refine ⟨decode_make_reset 0 0 0, fun idx rsv imm h => ?_, fun s => ?_⟩
  · rw [decode_make_reset, fixedZero_all_eq_error h]
  · rw [exec_reset, doReset_eq_powerOn]

end Machine

end Sys2Proof

/-! ## Decoder and encoder, both ways (R81 to R85)

Decoding what the encoder wrote is one lemma per format (`decode_encode_opw`, `decode_encode_lsw`);
the other way, a word that is read is made of the fields its row names
(`RowFields.make_eq_of_zeroIn`, `LoopStateWord.form_eq_of_read`). -/

namespace Sys2Proof

/-! ### From an instruction to its word and back -/

/-- The encoder writes an instruction in its own format. -/
theorem exists_encode_eq_opw {i : Instr} (h : i.format = .opw) : ∃ w, encode i = .opw w := by
  cases i with
  | reset | tick | edge | quantum | get | put | getIsr | putIsr | dispatch | step | capture =>
    exact ⟨_, rfl⟩
  | _ => cases h

/-- A top-level operation is read back from its word whatever its operands are: one out of range
selects the row all the same (R83). -/
theorem decode_encode_opw {i : Instr} (h : i.format = .opw) : decode (encode i) = .ok i := by
  cases i with
  | reset | quantum | dispatch | capture => rfl
  | tick n => exact decode_make_tick 0 0 n
  | edge v => exact decode_make_edge 0 0 v
  | get c => exact decode_make_get c 0 0
  | put c v => exact decode_make_put c 0 v
  | getIsr c => exact decode_make_getIsr c 0 0
  | putIsr c v => exact decode_make_putIsr c 0 v
  | step l => exact decode_make_step l 0 0
  | _ => cases h

/-- A loop-state step is read back from its word when `FATAL` carries a state value that its loop
does not recognise (R84). -/
theorem decode_encode_lsw {i : Instr} (h : i.format = .lsw) (hwf : i.wf = true) :
    decode (encode i) = .ok i := by
  cases i with
  | echoSetup | echoRun | carInit | carDriving | carStopped | carAvoid | motorSetup | motorRun
  | steerSetup | steerRun => rfl
  | fatal l v =>
    have hunrec : l.recognises v = false := by simpa [Instr.wf] using hwf
    rw [encode, decode_form, decodeLoopState_of_unrecognised hunrec]
  | _ => cases h

/-- Each arm is read back from the phase value it is written as (R85). -/
theorem decode_encode_phv {i : Instr} (h : i.format = .phv) : decode (encode i) = .ok i := by
  cases i with
  | captureRise | captureFall => rfl
  | _ => cases h

/-! ### From an operation word to its instruction and back -/

namespace Machine

/-- A word with a row's class and operation and its fixed fields 0 is assembled from the row and the
fields that the row leaves free. -/
theorem RowFields.make_eq_of_zeroIn {w : OpWord} {f : RowFields} (hw : HasCode w f)
    (hzero : f.zeroIn w = true) :
    OpWord.make f.cls f.op (if f.fixesIdx then 0 else OpWord.idx w) 0
      (if f.fixesImm then 0 else OpWord.imm w) = w := by
  obtain ⟨hcls, hop⟩ := hw
  obtain ⟨⟨hrsv, hidx⟩, himm⟩ : (OpWord.rsv w = 0#4 ∧ (f.fixesIdx = true → OpWord.idx w = 0#4)) ∧
      (f.fixesImm = true → OpWord.imm w = 0#16) := by
    simpa [RowFields.zeroIn, ← imp_iff_not_or, ← Bool.not_eq_true] using hzero
  have hidx' : (if f.fixesIdx then 0 else OpWord.idx w) = OpWord.idx w := by
    split_ifs with hfix
    · exact (hidx hfix).symm
    · rfl
  have himm' : (if f.fixesImm then 0 else OpWord.imm w) = OpWord.imm w := by
    split_ifs with hfix
    · exact (himm hfix).symm
    · rfl
  calc
    _ = OpWord.make (OpWord.cls w) (OpWord.op w) (OpWord.idx w) (OpWord.rsv w) (OpWord.imm w) := by
      rw [hidx', himm', hcls, hop, hrsv]; rfl
    _ = w := OpWord.make_fields w

/-- The encoder writes a row's instruction with the row's class and operation, and with the operands
read from the word in the fields that the row leaves free. -/
theorem encode_rowInstr {w : OpWord} {k : Nat} {f : RowFields} {i : Instr}
    (hf : rowFields[k]? = some f) (hi : rowInstr k w = some i) :
    encode i = .opw (OpWord.make f.cls f.op (if f.fixesIdx then 0 else OpWord.idx w) 0
      (if f.fixesImm then 0 else OpWord.imm w)) := by
  have hk : k < 11 := (List.getElem?_eq_some_iff.1 hf).1
  interval_cases k <;> cases hf <;> cases hi <;> rfl

theorem encode_of_decode_opw {w : OpWord} {i : Instr} (h : decode (.opw w) = .ok i) :
    encode i = .opw w := by
  obtain ⟨k, row, hrow, hsel, hi⟩ := (decode_opw_eq_ok_iff w i).1 h
  obtain ⟨f, hf, rfl⟩ := getElem?_opwRows.1 hrow
  obtain ⟨hcode, hzero⟩ := (selects_row w f).1 hsel
  rw [encode_rowInstr hf hi, RowFields.make_eq_of_zeroIn hcode hzero]

end Machine

/-! ### From a loop-state word to its instruction and back -/

theorem LoopId.eq_index_of_ofIndex {c : BitVec 4} {l : LoopId} (h : LoopId.ofIndex c = some l) :
    c = l.index := by
  rcases LoopId.ofIndex_cases c with ⟨l', hc, rfl, -⟩ | ⟨hnone, -⟩
  · rw [hc] at h
    rw [Option.some.inj h]
  · simp [hnone] at h

/-- Bits 15:12 zero and bits 11:8 the id of a loop: the word is formed from that loop and from bits
7:0. -/
theorem LoopStateWord.form_eq_of_read {w : LoopStateWord} {l : LoopId}
    (hzero : LoopStateWord.zero w = 0#4) (hl : LoopId.ofIndex (LoopStateWord.loop w) = some l) :
    LoopStateWord.form l (LoopStateWord.state w) = w := by
  rw [LoopStateWord.form, ← LoopId.eq_index_of_ofIndex hl, ← hzero, LoopStateWord.zero,
    LoopStateWord.loop, LoopStateWord.state,
    BitVec.extractLsb'_append_extractLsb'_eq_extractLsb' (show 12 = 8 + 4 from rfl),
    BitVec.extractLsb'_append_extractLsb'_eq_extractLsb' (show 8 = 0 + 8 from rfl),
    BitVec.extractLsb'_eq_self]

/-- The encoder writes the step of a pair as the word of that pair, `FATAL` included. -/
theorem encode_decodeLoopState (l : LoopId) (v : Byte) :
    encode (decodeLoopState l v) = .lsw (LoopStateWord.form l v) := by
  have hv {n : Nat} (hn : v.toNat = n) : BitVec.ofNat 8 n = v :=
    BitVec.eq_of_toNat_eq (by simp [← hn])
  unfold decodeLoopState
  split
  case h_11 => rfl
  all_goals exact congrArg (fun x => InstrWord.lsw (LoopStateWord.form _ x)) (hv ‹_›)

theorem encode_of_decode_lsw {w : LoopStateWord} {i : Instr} (h : decode (.lsw w) = .ok i) :
    encode i = .lsw w := by
  simp only [decode, decodeLsw] at h
  split_ifs at h with hzero
  split at h
  · next l hl =>
    obtain rfl := Except.ok.inj h
    rw [encode_decodeLoopState, LoopStateWord.form_eq_of_read hzero hl]
  · cases h

/-! ### The obligations -/

/-- Settles O43: one lemma for each of the three formats. -/
theorem decodeEncodeRoundTrip : Obligations.DecodeEncodeRoundTrip := by
  intro i hwf
  cases hi : i.format with
  | opw => exact decode_encode_opw hi
  | lsw => exact decode_encode_lsw hi hwf
  | phv => exact decode_encode_phv hi

/-- Settles O44: the word read is the one assembled from the fields it was read by. -/
theorem encodeDecodeRoundTrip : Obligations.EncodeDecodeRoundTrip :=
  ⟨fun _ _ => Machine.encode_of_decode_opw, fun _ _ => encode_of_decode_lsw⟩

/-- Settles O45: the decoder evaluates on each word. -/
theorem sampleWordsDecode : Obligations.SampleWordsDecode :=
  ⟨rfl, rfl, rfl, rfl, rfl, rfl, rfl⟩

end Sys2Proof

/-! ## What any instruction leaves, and what it leaves alone

`exec_effect` says once what a next state of any instruction is, those of the three formats alike
(`Effect`); each rule about the whole machine is then read off the effects (R10, R42, R47, R48, R72,
R118). -/

namespace Sys2Proof.Machine

open Sys2Proof

/-! ### The effects -/

/-- What a loop-state step or a capture arm leaves by itself (log 8). The four steps of CAR all
enter some car-control state (R180). -/
inductive InnerEffect (s : State) : Instr → State → Prop where
  | echoSetup : InnerEffect s .echoSetup (echoSetup s)
  | echoRun : InnerEffect s .echoRun (echoRun s)
  | enterCar {i : Instr} (hi : i ∈ [Instr.carInit, .carDriving, .carStopped, .carAvoid])
      (n : CarState) : InnerEffect s i (enterCar n s)
  | motorSetup : InnerEffect s .motorSetup (motorSetup s)
  | motorRun : InnerEffect s .motorRun (motorRun s)
  | steerSetup : InnerEffect s .steerSetup (steerSetup s)
  | steerRun : InnerEffect s .steerRun (steerRun s)
  | fatal (l : LoopId) (v : Byte) : InnerEffect s (.fatal l v) (fatal l v s)
  | captureRise (t : Word) : InnerEffect s .captureRise (captureRise t s)
  | captureFall : InnerEffect s .captureFall (captureFall s.tcnt s)

/-- `DISPATCH` and `STEP l` are the operations that run loop `l` (R163, R164). -/
abbrev RunsLoop (i : Instr) (l : LoopId) : Prop := i = .dispatch ∨ i = .step l.index

/-- What an instruction leaves. `idle` is a `TICK` of an unarmed unit and a `DISPATCH` that runs no
loop; `expiry` is a quantum at which the watchdog restarts the block. -/
inductive Effect (s : State) : Instr → State → Prop where
  | reset : Effect s .reset (doReset s)
  | tick (n t : Word) : Effect s (.tick n) { s with tcnt := t }
  | edge (v : Word) (level capf : Bool) :
      Effect s (.edge v) { s with echoIn := level, capf := capf }
  | quantum (running : s.wdtArmed = false ∨ 2 ≤ s.wdtCnt.toNat) :
      Effect s .quantum
        { s with
          wake := s.wake.map countDown
          wdtCnt := if s.wdtArmed then countDown s.wdtCnt else s.wdtCnt }
  | expiry (armed : s.wdtArmed = true) : Effect s .quantum (doReset s)
  | get (c : BitVec 4) (x : Word) : Effect s (.get c) { s with result := some x }
  | put (cell : CellId) {v : Word} {x : BitVec cell.width} (operand : putValue cell v = some x) :
      Effect s (.put cell.index v) (writeCell cell x s)
  | idle {i : Instr} (hi : i = .dispatch ∨ ∃ n, i = .tick n) : Effect s i s
  | iterate {i : Instr} {l : LoopId} {u : State} (hi : RunsLoop i l) (step : LoopStep s l u) :
      Effect s i (setWake l (s.cfg.period.get l).val u)
  | loopFatal {i : Instr} {l : LoopId} (hi : RunsLoop i l) (running : s.fatalF = false)
      (unrecognised : l.recognises (s.st.get l) = false) : Effect s i (fatal l (s.st.get l) s)
  | captureRise (t : Word) : Effect s .capture (captureRise t (captureEntry s))
  | captureFall : Effect s .capture (captureFall s.tcnt (captureEntry s))
  | inner {i : Instr} {t : State} (e : InnerEffect s i t) : Effect s i t

theorem InnerEffect.format_ne_opw {i : Instr} {s t : State} (e : InnerEffect s i t) :
    i.format ≠ .opw := by
  cases e with
  | enterCar hi =>
    simp only [List.mem_cons, List.not_mem_nil, or_false] at hi
    rcases hi with rfl | rfl | rfl | rfl <;> nofun
  | _ => nofun

/-- A loop-state step that `DISPATCH` or `STEP` runs is the step of some row of R84. -/
theorem LoopStep.innerEffect {s u : State} {l : LoopId} (e : LoopStep s l u) :
    ∃ j : Instr, j.format = .lsw ∧ InnerEffect s j u := by
  cases e with
  | echoSetup => exact ⟨_, rfl, .echoSetup⟩
  | echoRun => exact ⟨_, rfl, .echoRun⟩
  | enterCar n => exact ⟨.carInit, rfl, .enterCar (by simp) n⟩
  | motorSetup => exact ⟨_, rfl, .motorSetup⟩
  | motorRun => exact ⟨_, rfl, .motorRun⟩
  | steerSetup => exact ⟨_, rfl, .steerSetup⟩
  | steerRun => exact ⟨_, rfl, .steerRun⟩

/-- A loop-state step or an arm never refuses, and leaves its effect. -/
theorem exec_innerEffect {i : Instr} {s t : State} (hi : i.format ≠ .opw) (h : exec i s = .next t) :
    InnerEffect s i t := by
  cases i with
  | echoSetup => cases h; exact .echoSetup
  | echoRun => cases h; exact .echoRun
  | carInit => cases h; exact .enterCar (by simp) _
  | carDriving => rw [exec_carDriving] at h; cases h; exact .enterCar (by simp) _
  | carStopped => rw [exec_carStopped] at h; cases h; exact .enterCar (by simp) _
  | carAvoid => rw [exec_carAvoid] at h; cases h; exact .enterCar (by simp) _
  | motorSetup => cases h; exact .motorSetup
  | motorRun => cases h; exact .motorRun
  | steerSetup => cases h; exact .steerSetup
  | steerRun => cases h; exact .steerRun
  | fatal l v => cases h; exact .fatal l v
  | captureRise => cases h; exact .captureRise _
  | captureFall => cases h; exact .captureFall
  | _ => exact absurd rfl hi

theorem effect_iterate {i : Instr} {l : LoopId} {s : State} (hi : RunsLoop i l)
    (hf : s.fatalF = false) : Effect s i (iterate l s) := by
  rcases iterate_loopStep l s with ⟨u, hu, e⟩ | ⟨hunrec, e⟩ <;> rw [e]
  · exact .iterate hi hu
  · exact .loopFatal hi hf hunrec

theorem effect_quantum (s : State) : Effect s .quantum (quantum s) := by
  by_cases hrun : s.wdtArmed = false ∨ 2 ≤ s.wdtCnt.toNat
  · rw [quantum_of_running hrun]
    exact .quantum hrun
  · obtain ⟨hon, hle⟩ : s.wdtArmed = true ∧ s.wdtCnt.toNat ≤ 1 := by
      simpa [Nat.lt_succ_iff] using hrun
    rw [quantum_of_expiring hon hle]
    exact .expiry hon

theorem effect_capture (s : State) : Effect s .capture (captureHandler s) := by
  rcases captureHandler_cases s with ⟨-, e⟩ | ⟨-, e⟩ <;> rw [e]
  · exact .captureRise s.tcnt
  · exact .captureFall

/-- Everything an instruction can leave. -/
theorem exec_effect {i : Instr} {s t : State} (h : exec i s = .next t) : Effect s i t := by
  by_cases hi : i.format = .opw
  · rcases exec_opw_next_cases hi h with
      ⟨rfl, rfl⟩ | ⟨n, rfl, -, rfl⟩ | ⟨n, rfl, -, rfl⟩ | ⟨v, level, rfl, -, rfl⟩ | ⟨rfl, rfl⟩ |
      ⟨c, cell, rfl, -, rfl⟩ | ⟨c, v, cell, x, rfl, hc, hx, -, rfl⟩ | ⟨rfl, rfl⟩ |
      ⟨l, hruns, hf, rfl⟩ | ⟨rfl, -, -, -, rfl⟩
    · exact .reset
    · exact .tick n _
    · exact .idle (.inr ⟨n, rfl⟩)
    · exact .edge v level _
    · exact effect_quantum s
    · exact .get c _
    · rw [CellId.eq_index_of_ofIndex hc]
      exact .put cell hx
    · exact .idle (.inl rfl)
    · exact effect_iterate hruns hf
    · exact effect_capture s
  · exact .inner (exec_innerEffect hi h)

/-! ### What no instruction writes (R44, R72) -/

theorem InnerEffect.inputs_eq {i : Instr} {s t : State} (e : InnerEffect s i t) :
    t.cfg = s.cfg ∧ t.extWritesOnlyCmd = s.extWritesOnlyCmd ∧ t.trace = s.trace ∧
      t.result = s.result := by
  cases e with
  | enterCar _ n => rw [enterCar_eq]; exact ⟨rfl, rfl, rfl, rfl⟩
  | _ => exact ⟨rfl, rfl, rfl, rfl⟩

theorem LoopStep.inputs_eq {l : LoopId} {s u : State} (e : LoopStep s l u) :
    u.cfg = s.cfg ∧ u.extWritesOnlyCmd = s.extWritesOnlyCmd ∧ u.trace = s.trace ∧
      u.result = s.result := by
  obtain ⟨_, -, e'⟩ := e.innerEffect
  exact e'.inputs_eq

theorem Effect.inputs_eq {i : Instr} {s t : State} (e : Effect s i t) :
    t.cfg = s.cfg ∧ t.extWritesOnlyCmd = s.extWritesOnlyCmd ∧ t.trace = s.trace := by
  cases e with
  | put cell => simp
  | iterate _ hu =>
    obtain ⟨hcfg, hflag, htrace, -⟩ := hu.inputs_eq
    exact ⟨hcfg, hflag, htrace⟩
  | inner e =>
    obtain ⟨hcfg, hflag, htrace, -⟩ := e.inputs_eq
    exact ⟨hcfg, hflag, htrace⟩
  | _ => exact ⟨rfl, rfl, rfl⟩

/-! ### The result (R10, log 3) -/

/-- Only `GET` writes the result. -/
theorem Effect.result_eq {i : Instr} {s t : State} (e : Effect s i t) :
    t.result = s.result ∨ ∃ c, i = .get c ∧ t.result.isSome = true := by
  cases e with
  | get c x => exact .inr ⟨c, rfl, rfl⟩
  | put cell => exact .inl (by simp)
  | iterate _ hu =>
    obtain ⟨-, -, -, hresult⟩ := hu.inputs_eq
    exact .inl hresult
  | inner e =>
    obtain ⟨-, -, -, hresult⟩ := e.inputs_eq
    exact .inl hresult
  | _ => exact .inl rfl

/-! ### The diagnostic records (R42, R211) -/

theorem LoopStep.diag_eq {l : LoopId} {s u : State} (e : LoopStep s l u) : u.diag = s.diag := by
  cases e with
  | enterCar n => rw [enterCar_eq]
  | _ => rfl

/-- A top-level operation appends a record only where it finds an unrecognised loop state. -/
theorem Effect.diag_eq {i : Instr} {s t : State} (hi : i.format = .opw) (e : Effect s i t) :
    t.diag = s.diag ∨
    ∃ l : LoopId, t.diag = s.diag ++ [.illegalState l (s.st.get l)] ∧
      l.recognises (s.st.get l) = false ∧ s.fatalF = false ∧ t.fatalF = true ∧ RunsLoop i l := by
  cases e with
  | put cell => exact .inl (by simp)
  | iterate _ hu => exact .inl hu.diag_eq
  | loopFatal hruns hf hunrec => exact .inr ⟨_, rfl, hunrec, hf, rfl, hruns⟩
  | inner e => exact absurd hi e.format_ne_opw
  | _ => exact .inl rfl

/-! ### The watchdog clause of R47 -/

theorem watchdogCoherent_fatal (l : LoopId) (v : Byte) (s : State) :
    WatchdogCoherent (fatal l v s) :=
  ⟨rfl, fun _ => ⟨s.cfg.wdtTimeout.one_le, Nat.le_refl _⟩⟩

theorem InnerEffect.watchdogCoherent {i : Instr} {s t : State} (hs : WatchdogCoherent s)
    (e : InnerEffect s i t) : WatchdogCoherent t := by
  cases e with
  | enterCar _ n => rw [enterCar_eq]; exact hs
  | fatal l v => exact watchdogCoherent_fatal l v s
  | _ => exact hs

/-- Only `FATAL`, a quantum and a restart write what the clause compares. -/
theorem Effect.watchdogCoherent {i : Instr} {s t : State} (hs : WatchdogCoherent s)
    (e : Effect s i t) : WatchdogCoherent t := by
  cases e with
  | reset | expiry => exact ⟨rfl, nofun⟩
  | quantum running =>
    obtain ⟨heq, hrange⟩ := hs
    refine ⟨heq, fun hf => ?_⟩
    obtain ⟨-, hle⟩ := hrange hf
    have harmed : s.wdtArmed = true := heq ▸ hf
    have hge : 2 ≤ s.wdtCnt.toNat := by simpa [harmed] using running
    simp only [harmed, if_true, countDown_toNat]
    omega
  | put cell => cases cell <;> exact hs
  | @iterate _ l u _ hu =>
    obtain ⟨_, -, e⟩ := hu.innerEffect
    have hu' : WatchdogCoherent u := e.watchdogCoherent hs
    exact hu'
  | loopFatal => exact watchdogCoherent_fatal _ _ s
  | inner e => exact e.watchdogCoherent hs
  | _ => exact hs

/-! ### The registers and their writers (R48) -/

theorem RegId.read_writeCell (r : RegId) (c : CellId) (v : BitVec c.width) (s : State) :
    r.read (writeCell c v s) = r.read s := by
  cases r <;> simp [RegId.read]

theorem RegId.read_withResult (r : RegId) (x : Option Word) (s : State) :
    r.read { s with result := x } = r.read s := by
  cases r <;> rfl

theorem RegId.eq_wake_of_read_ne {r : RegId} {l : LoopId} {v : Word} {s : State}
    (h : r.read (setWake l v s) ≠ r.read s) : r = .wake l := by
  cases r with
  | wake m =>
    by_contra hne
    have hml : m ≠ l := fun e => hne (congrArg RegId.wake e)
    simp [RegId.read, LoopBank.get_set_other _ v hml] at h
  | _ => exact absurd rfl h

theorem RegId.eq_st_of_read_ne {r : RegId} {l : LoopId} {v : Byte} {s : State}
    (h : r.read (setSt l v s) ≠ r.read s) : r = .st l := by
  cases r with
  | st m =>
    by_contra hne
    have hml : m ≠ l := fun e => hne (congrArg RegId.st e)
    simp [RegId.read, LoopBank.get_set_other _ v hml] at h
  | _ => exact absurd rfl h

/-- Of the registers, entering a car-control state writes `ST[CAR]` alone (R180). -/
theorem RegId.read_enterCar (r : RegId) (n : CarState) (s : State) :
    r.read (enterCar n s) = r.read (setSt .car n.code s) := by
  rw [enterCar_eq]
  cases r <;> rfl

/-- `RESET` leaves no register but `ECHO_IN` as it was (R241). -/
theorem RegId.writtenBy_reset {r : RegId} {s : State} (h : r.read (doReset s) ≠ r.read s) :
    r.writtenBy .reset = true := by
  cases r with
  | echoIn => exact absurd rfl h
  | _ => rfl

theorem InnerEffect.writtenBy {i : Instr} {s t : State} {r : RegId} (e : InnerEffect s i t)
    (h : r.read t ≠ r.read s) : r.writtenBy i = true := by
  cases e with
  | echoSetup =>
    cases r with
    | es | capf | trig | capie | armed => rfl
    | st l =>
      cases l with
      | echo => rfl
      | car | motor | steer => exact absurd rfl h
    | _ => exact absurd rfl h
  | echoRun =>
    cases r with
    | trig => rfl
    | _ => exact absurd rfl h
  | enterCar hi n =>
    obtain rfl := RegId.eq_st_of_read_ne (RegId.read_enterCar r n s ▸ h)
    simp only [List.mem_cons, List.not_mem_nil, or_false] at hi
    rcases hi with rfl | rfl | rfl | rfl <;> rfl
  | motorSetup => obtain rfl := RegId.eq_st_of_read_ne h; rfl
  | steerSetup => obtain rfl := RegId.eq_st_of_read_ne h; rfl
  | motorRun =>
    cases r with
    | motorOut => rfl
    | _ => exact absurd rfl h
  | steerRun =>
    cases r with
    | steerOut => rfl
    | _ => exact absurd rfl h
  | fatal l v =>
    cases r with
    | fatalF | wdtArmed | wdtCnt => rfl
    | _ => exact absurd rfl h
  | captureRise t =>
    cases r with
    | tcnt | es => rfl
    | _ => exact absurd rfl h
  | captureFall =>
    cases r with
    | es => rfl
    | _ => exact absurd rfl h

theorem mayRun_of_runsLoop {i j : Instr} {l : LoopId} (hi : RunsLoop i l) (hj : j.format = .lsw) :
    mayRun i j = true := by
  rcases hi with rfl | rfl <;> simp [mayRun, hj]

theorem writtenBy_wake_of_runsLoop {i : Instr} {l : LoopId} (hi : RunsLoop i l) (m : LoopId) :
    (RegId.wake m).writtenBy i = true := by
  rcases hi with rfl | rfl <;> rfl

/-- A register that reads otherwise is one that the instruction's row lists, or the row of an
instruction that runs inside it. -/
theorem Effect.writtenBy {i : Instr} {s t : State} {r : RegId} (e : Effect s i t)
    (h : r.read t ≠ r.read s) :
    r.writtenBy i = true ∨ ∃ j, mayRun i j = true ∧ r.writtenBy j = true := by
  cases e with
  | reset => exact .inl (RegId.writtenBy_reset h)
  | tick n t =>
    cases r with
    | tcnt => exact .inl rfl
    | _ => exact absurd rfl h
  | edge v level capf =>
    cases r with
    | echoIn | capf => exact .inl rfl
    | _ => exact absurd rfl h
  | quantum running =>
    cases r with
    | wake l | wdtCnt => exact .inl rfl
    | _ => exact absurd rfl h
  | expiry armed => exact .inr ⟨.reset, rfl, RegId.writtenBy_reset h⟩
  | get c x => exact absurd (RegId.read_withResult r _ s) h
  | put cell => exact absurd (RegId.read_writeCell r cell _ s) h
  | idle => exact absurd rfl h
  | @iterate _ l u hi hu =>
    by_cases hwake : r.read (setWake l (s.cfg.period.get l).val u) = r.read u
    · obtain ⟨j, hj, e⟩ := hu.innerEffect
      exact .inr ⟨j, mayRun_of_runsLoop hi hj, e.writtenBy (hwake ▸ h)⟩
    · obtain rfl := RegId.eq_wake_of_read_ne hwake
      exact .inl (writtenBy_wake_of_runsLoop hi l)
  | @loopFatal _ l hi =>
    exact .inr ⟨.fatal l (s.st.get l), mayRun_of_runsLoop hi rfl,
      (InnerEffect.fatal l (s.st.get l)).writtenBy h⟩
  | captureRise t =>
    cases r with
    | capf | es => exact .inl rfl
    | tcnt => exact .inr ⟨.captureRise, rfl, rfl⟩
    | _ => exact absurd rfl h
  | captureFall =>
    cases r with
    | capf | es => exact .inl rfl
    | _ => exact absurd rfl h
  | inner e => exact .inl (e.writtenBy h)

/-! ### The pulse width (R118) -/

theorem InnerEffect.pulseWidth_eq {i : Instr} {s t : State} (e : InnerEffect s i t) :
    t.cells.pulseWidth = s.cells.pulseWidth ∨
      (i = .captureFall ∧ t.cells.pulseWidth = s.tcnt) := by
  cases e with
  | enterCar _ n => rw [enterCar_eq]; exact .inl rfl
  | captureFall => exact .inr ⟨rfl, rfl⟩
  | _ => exact .inl rfl

theorem LoopStep.pulseWidth_eq {l : LoopId} {s u : State} (e : LoopStep s l u) :
    u.cells.pulseWidth = s.cells.pulseWidth := by
  cases e with
  | enterCar n => rw [enterCar_eq]
  | _ => rfl

/-- The pulse width after an instruction: the one before, or the whole of one write. -/
theorem Effect.pulseWidth_eq {i : Instr} {s t : State} (e : Effect s i t) :
    t.cells.pulseWidth = s.cells.pulseWidth ∨
    ((i = .capture ∨ i = .captureFall) ∧ t.cells.pulseWidth = s.tcnt) ∨
    ((i = .reset ∨ (i = .quantum ∧ s.wdtArmed = true)) ∧ t.cells.pulseWidth = s.cfg.pwInit) ∨
    ∃ v, i = .put 1 v ∧ t.cells.pulseWidth = v := by
  cases e with
  | reset => exact .inr (.inr (.inl ⟨.inl rfl, rfl⟩))
  | expiry armed => exact .inr (.inr (.inl ⟨.inr ⟨rfl, armed⟩, rfl⟩))
  | @put cell v x hx =>
    cases cell with
    | pulseWidth => exact .inr (.inr (.inr ⟨v, rfl, (Option.some.inj hx).symm⟩))
    | _ => exact .inl rfl
  | iterate _ hu => exact .inl hu.pulseWidth_eq
  | captureFall => exact .inr (.inl ⟨.inl rfl, rfl⟩)
  | inner e =>
    rcases e.pulseWidth_eq with hkept | ⟨rfl, hwritten⟩
    · exact .inl hkept
    · exact .inr (.inl ⟨.inr rfl, hwritten⟩)
  | _ => exact .inl rfl

/-! ### The obligations -/

/-- Settles O13: the accessors leave the result, or one cell written. -/
theorem accessorsTouchNoRegister : Obligations.AccessorsTouchNoRegister := by
  refine ⟨fun c s t h => ?_, fun c v s t h => ?_⟩
  · obtain ⟨cell, -, rfl⟩ := execGet_next h
    exact ⟨fun r => RegId.read_withResult r _ s, rfl, rfl⟩
  · obtain ⟨cell, x, hc, -, -, rfl⟩ := execPut_next h
    obtain rfl := CellId.eq_index_of_ofIndex hc
    exact ⟨fun r => RegId.read_writeCell r cell x s, State.writeCell_diag cell x s,
      fun d hd => readCell_writeCell_other x s fun e => hd (congrArg CellId.index e)⟩

/-- Settles O37: every effect keeps the clause, and taking the word does not touch it. -/
theorem watchdogCoherenceKept : Obligations.WatchdogCoherenceKept := by
  intro s t hs h
  obtain ⟨_, rest, _, -, -, -, hexec⟩ := step_next h
  exact (exec_effect hexec).watchdogCoherent (s := takeWord rest s) hs

/-- Settles O48: the step clears the result, and only `GET` writes it. -/
theorem resultExactlyAfterGet : Obligations.ResultExactlyAfterGet := by
  intro s t h
  obtain ⟨w, rest, i, htrace, hd, -, hexec⟩ := step_next h
  constructor
  · intro hsome
    rcases (exec_effect hexec).result_eq with hkept | ⟨c, rfl, -⟩
    · simp [hkept] at hsome
    · exact ⟨w, rest, c, htrace, hd⟩
  · rintro ⟨w', rest', c, htrace', hd'⟩
    obtain ⟨rfl, rfl⟩ := List.cons.inj (htrace.symm.trans htrace')
    obtain rfl : i = .get c := by simpa [hd] using hd'
    obtain ⟨cell, -, rfl⟩ := execGet_next hexec
    rfl

/-- Settles O53: of the effects of a top-level operation only the loop's `FATAL` writes `DIAG`. -/
theorem diagAppendOnly : Obligations.DiagAppendOnly :=
  fun _ _ _ hi h => (exec_effect h).diag_eq hi

/-- Settles O54: each effect against the rows of the register map. -/
theorem registersWrittenByTheirRows : Obligations.RegistersWrittenByTheirRows :=
  fun _ _ _ _ h hne => (exec_effect h).writtenBy hne

/-- Settles O55: no effect writes the parameters, the flag or the trace. -/
theorem configurationNeverWritten : Obligations.ConfigurationNeverWritten :=
  fun _ _ _ h => (exec_effect h).inputs_eq

/-- Settles O56: the effects that write the cell write the whole of it. -/
theorem pulseWidthIsOneWholeWrite : Obligations.PulseWidthIsOneWholeWrite := by
  intro i s t h
  rcases (exec_effect h).pulseWidth_eq with hkept | hfall | ⟨hrestart, hw⟩ | hput
  · exact .inl hkept
  · exact .inr (.inl hfall)
  · exact .inr (.inr (.inl ⟨hrestart.imp_right And.left, hw⟩))
  · exact .inr (.inr (.inr hput))

end Sys2Proof.Machine

/-! ## Lists of operations, and runs of the machine

The equations of `applyAll`, what every operation of a list keeps (`applyAll_keeps`), and the run of
a trace as the list of its operations, refusals included (`exec_next_or_refused`,
`run_traceWords`). -/

namespace Sys2Proof.Machine

open Sys2Proof

/-! ### Applying a list of operations -/

theorem applyAll_cons {i : Instr} {s u : State} (h : applyOp i s = .next u) (is : List Instr) :
    applyAll (i :: is) s = applyAll is u := by
  simp [applyAll, h]

theorem applyAll_append {is : List Instr} {s u : State} (h : applyAll is s = .next u)
    (js : List Instr) : applyAll (is ++ js) s = applyAll js u := by
  induction is generalizing s with
  | nil => cases h; rfl
  | cons i is ih =>
    cases hi : applyOp i s with
    | next t =>
      rw [applyAll_cons hi] at h
      rw [List.cons_append, applyAll_cons hi, ih h]
    | fault r => simp [applyAll, hi] at h
    | refused r => simp [applyAll, hi] at h

theorem applyAll_singleton (i : Instr) (s : State) : applyAll [i] s = applyOp i s := by
  rw [applyAll]
  cases applyOp i s <;> rfl

/-- With no result left over, applying an operation is its meaning (R10). -/
theorem applyOp_of_result {s : State} (h : s.result = none) (i : Instr) :
    applyOp i s = exec i s := by
  have hs : { s with result := none } = s := by rw [← h]
  rw [applyOp, hs]

theorem applyAll_cons_of_result {i : Instr} {s u : State} (hres : s.result = none)
    (h : exec i s = .next u) (is : List Instr) : applyAll (i :: is) s = applyAll is u :=
  applyAll_cons (by rw [applyOp_of_result hres, h]) is

/-- The first operation of a list drops the result left over, so a list may be applied to a state
without one: what it leaves differs in the result at most (log 3). -/
theorem applyAll_of_cleared {is : List Instr} {s t : State}
    (h : applyAll is { s with result := none } = .next t) :
    ∃ r, applyAll is s = .next { t with result := r } := by
  cases is with
  | nil => cases h; exact ⟨s.result, rfl⟩
  | cons i is => exact ⟨t.result, h⟩

theorem applyAll_cleared {is : List Instr} (h : is ≠ []) (s : State) :
    applyAll is { s with result := none } = applyAll is s := by
  cases is with
  | nil => exact absurd rfl h
  | cons i is => rfl

/-- What every operation of a list keeps, the list keeps. -/
theorem applyAll_keeps {Q : Instr → Prop} {P : State → Prop}
    (hclear : ∀ s, P s → P { s with result := none })
    (hstep : ∀ i s t, Q i → P s → exec i s = .next t → P t) :
    ∀ {is : List Instr} {s t : State}, (∀ i ∈ is, Q i) → P s → applyAll is s = .next t → P t
  | [], s, t, _, hs, h => by cases h; exact hs
  | i :: is, s, t, hQ, hs, h => by
    rw [List.forall_mem_cons] at hQ
    obtain ⟨hi, his⟩ := hQ
    cases hop : applyOp i s with
    | next u =>
      rw [applyAll_cons hop] at h
      exact applyAll_keeps hclear hstep his (hstep i _ u hi (hclear s hs) hop) h
    | fault r => simp [applyAll, hop] at h
    | refused r => simp [applyAll, hop] at h

/-! ### The owner's flag (U4, log 4) -/

theorem exec_put_notDesignatedWriter {cell : CellId} {v : Word} {x : BitVec cell.width} {s : State}
    (hx : putValue cell v = some x) (hflag : s.extWritesOnlyCmd = true) (hcell : cell ≠ .driveCmd) :
    exec (.put cell.index v) s = .refused .notDesignatedWriter := by
  simp [exec, execPut, hx, hflag, hcell]

/-! ### The words still to come, refusals included (log 2) -/

/-- The outcome with each next state changed by `f`, refusals and faults as they are. -/
def mapNext (f : State → State) :
    Host.Outcome State Fault Refusal → Host.Outcome State Fault Refusal
  | .next t => .next (f t)
  | .fault r => .fault r
  | .refused r => .refused r

/-- An instruction answers a next state, or is refused for one reason whatever words are still to
come; none faults (log 18). -/
theorem exec_next_or_refused (i : Instr) (s : State) :
    (∃ t, exec i s = .next t) ∨ ∃ r, ∀ tr, exec i { s with trace := tr } = .refused r := by
  by_cases hidx : badIndexApplies i = true
  · exact .inr ⟨_, fun _ => exec_of_badIndex hidx _⟩
  have hidx' : badIndexApplies i = false := Bool.eq_false_iff.2 hidx
  cases i with
  | edge v =>
    cases hlevel : edgeLevel v with
    | none => exact .inr ⟨_, fun _ => exec_edge_operandRange (edgeLevel_eq_none_iff.1 hlevel) _⟩
    | some level => exact .inl ⟨_, exec_edge_of_level hlevel s⟩
  | get c =>
    have hlt : c.toNat < 5 := Nat.lt_of_not_le (of_decide_eq_false hidx')
    obtain ⟨cell, rfl⟩ := CellId.exists_eq_index_of_lt hlt
    exact .inl ⟨_, exec_get_index cell s⟩
  | put c v =>
    have hlt : c.toNat < 5 := Nat.lt_of_not_le (of_decide_eq_false hidx')
    obtain ⟨cell, rfl⟩ := CellId.exists_eq_index_of_lt hlt
    cases hx : putValue cell v with
    | none => exact .inr ⟨_, fun _ => exec_put_operandRange (CellId.ofIndex_index cell) hx _⟩
    | some x =>
      by_cases hforeign : s.extWritesOnlyCmd = true ∧ cell ≠ .driveCmd
      · obtain ⟨hflag, hcell⟩ := hforeign
        exact .inr ⟨_, fun _ => exec_put_notDesignatedWriter hx hflag hcell⟩
      · exact .inl ⟨_, exec_put_index hx (by simpa using hforeign)⟩
  | getIsr c | putIsr c v => exact .inr ⟨_, fun _ => exec_of_contractViolation hidx' rfl _⟩
  | step l =>
    have hlt : l.toNat < 4 := Nat.lt_of_not_le (of_decide_eq_false hidx')
    obtain ⟨loop, rfl⟩ := LoopId.exists_eq_index_of_lt hlt
    by_cases hf : s.fatalF = true
    · exact .inr ⟨_, fun tr =>
        exec_step_index_of_frozen (s := { s with trace := tr }) hf loop⟩
    · exact .inl ⟨_, exec_step_index (Bool.eq_false_iff.2 hf) loop⟩
  | capture =>
    by_cases hen : captureEnabled s = true
    · exact .inl ⟨_, if_pos hen⟩
    · exact .inr ⟨_, fun tr =>
        exec_capture_of_disabled (s := { s with trace := tr }) (Bool.eq_false_iff.2 hen)⟩
  | _ => exact .inl ⟨_, rfl⟩

/-- A top-level operation does the same whatever words are still to come. -/
theorem exec_withTrace_eq {i : Instr} (hi : i.format = .opw) (s : State) (tr : List OpWord) :
    exec i { s with trace := tr } = mapNext (fun t => { t with trace := tr }) (exec i s) := by
  rcases exec_next_or_refused i s with ⟨t, h⟩ | ⟨r, h⟩
  · rw [h, exec_withTrace hi h]
    rfl
  · rw [h, show exec i s = .refused r from h s.trace]
    rfl

theorem run_succ (k : Nat) (s : State) :
    Host.Core.run Sys2Proof.core (k + 1) s =
      match step s with
      | .next t => Host.Core.run Sys2Proof.core k t
      | .fault r => .fault r
      | .refused r => .refused r := by
  simp only [Host.Core.run, show Sys2Proof.core.step = step from rfl]
  cases step s <;> rfl

/-- Running the machine on the words of a list of operations is applying them in order. -/
theorem run_traceWords {is : List Instr} (his : ∀ i ∈ is, i.format = .opw) (s : State) :
    Host.Core.run Sys2Proof.core is.length { s with trace := traceWords is } =
      applyAll is { s with trace := [] } := by
  induction is generalizing s with
  | nil => rfl
  | cons i is ih =>
    rw [List.forall_mem_cons] at his
    obtain ⟨hi, his⟩ := his
    obtain ⟨w, hw⟩ := exists_encode_eq_opw hi
    have hd : decode (.opw w) = .ok i := hw ▸ decode_encode_opw hi
    have hwords : traceWords (i :: is) = w :: traceWords is := by rw [traceWords, hw]
    have hstep : step { s with trace := traceWords (i :: is) } =
        mapNext (fun t => { t with trace := traceWords is })
          (applyOp i { s with trace := [] }) := by
      rw [step_of_decode_ok (by exact hwords) hd, applyOp, ← exec_withTrace_eq hi]
      rfl
    rw [List.length_cons, run_succ, hstep, applyAll]
    cases hop : applyOp i { s with trace := [] } with
    | next t =>
      have htrace : t.trace = [] := exec_opw_trace hi hop
      have ht : { t with trace := [] } = t := by rw [← htrace]
      exact (ih his t).trans (congrArg _ ht)
    | fault r => rfl
    | refused r => rfl

/-! ### The stale pulse width (R140) -/

/-- With the watchdog not armed and every loop state recognised no quantum restarts the block and no
loop takes `FATAL`. -/
abbrev FatalFree (s : State) : Prop := s.wdtArmed = false ∧ RecognisedStates s

theorem LoopStep.recognisedStates {l : LoopId} {s u : State} (hs : RecognisedStates s)
    (e : LoopStep s l u) : RecognisedStates u := by
  have ⟨hecho, hcar, hmotor, hsteer⟩ := hs
  cases e with
  | echoSetup => exact ⟨Nat.one_lt_two, hcar, hmotor, hsteer⟩
  | enterCar n => rw [enterCar_eq]; exact ⟨hecho, n.code_toNat_lt, hmotor, hsteer⟩
  | motorSetup => exact ⟨hecho, hcar, Nat.one_lt_two, hsteer⟩
  | steerSetup => exact ⟨hecho, hcar, hmotor, Nat.one_lt_two⟩
  | echoRun | motorRun | steerRun => exact hs

theorem LoopStep.wdtArmed_eq {l : LoopId} {s u : State} (e : LoopStep s l u) :
    u.wdtArmed = s.wdtArmed := by
  cases e with
  | enterCar n => rw [enterCar_eq]
  | _ => rfl

theorem LoopStep.fatalFree {l : LoopId} {s u : State} (hs : FatalFree s) (e : LoopStep s l u) :
    FatalFree u := by
  obtain ⟨hoff, hrec⟩ := hs
  exact ⟨e.wdtArmed_eq.trans hoff, e.recognisedStates hrec⟩

theorem InnerEffect.fatalFree {i : Instr} {s t : State} (hi : ∀ l v, i ≠ .fatal l v)
    (hs : FatalFree s) (e : InnerEffect s i t) : FatalFree t := by
  have ⟨hoff, hecho, hcar, hmotor, hsteer⟩ := hs
  cases e with
  | echoSetup => exact ⟨hoff, Nat.one_lt_two, hcar, hmotor, hsteer⟩
  | enterCar _ n => exact (LoopStep.enterCar n).fatalFree hs
  | motorSetup => exact LoopStep.motorSetup.fatalFree hs
  | steerSetup => exact LoopStep.steerSetup.fatalFree hs
  | fatal l v => exact absurd rfl (hi l v)
  | echoRun | motorRun | steerRun | captureRise | captureFall => exact hs

theorem Effect.fatalFree {i : Instr} {s t : State} (hi : ∀ l v, i ≠ .fatal l v) (hs : FatalFree s)
    (e : Effect s i t) : FatalFree t := by
  cases e with
  | reset | expiry => exact ⟨rfl, recognisedStates_doReset s⟩
  | put cell => cases cell <;> exact hs
  | @iterate _ l u _ hu =>
    have hu' : FatalFree u := hu.fatalFree hs
    exact hu'
  | @loopFatal _ l _ _ hunrec =>
    obtain ⟨-, hrec⟩ := hs
    simp [RecognisedStates.recognises hrec l] at hunrec
  | inner e => exact e.fatalFree hi hs
  | _ => exact hs

/-- The operation captures nothing, is no `RESET` and puts nothing into `PULSE_WIDTH`. -/
abbrev SparesWidth (i : Instr) : Prop :=
  i ≠ .capture ∧ i ≠ .captureFall ∧ i ≠ .reset ∧ ∀ v, i ≠ .put 1 v

/-- A quantum apart that restarts the block, such an operation leaves the pulse width alone. -/
theorem SparesWidth.pulseWidth_eq {i : Instr} {s t : State} (hi : SparesWidth i)
    (hq : i ≠ .quantum ∨ s.wdtArmed = false) (e : Effect s i t) :
    t.cells.pulseWidth = s.cells.pulseWidth := by
  obtain ⟨hcapture, hfall, hreset, hput⟩ := hi
  rcases e.pulseWidth_eq with hkept | ⟨rfl | rfl, -⟩ | ⟨rfl | ⟨rfl, hon⟩, -⟩ | ⟨v, rfl, -⟩
  · exact hkept
  · exact absurd rfl hcapture
  · exact absurd rfl hfall
  · exact absurd rfl hreset
  · rcases hq with hne | hoff
    · exact absurd rfl hne
    · simp [hon] at hoff
  · exact absurd rfl (hput v)

theorem pulseWidth_eq_of_no_quantum {is : List Instr} {s t : State}
    (his : ∀ i ∈ is, SparesWidth i ∧ i ≠ .quantum) (h : applyAll is s = .next t) :
    t.cells.pulseWidth = s.cells.pulseWidth := by
  refine applyAll_keeps (Q := fun i => SparesWidth i ∧ i ≠ .quantum)
    (P := fun u => u.cells.pulseWidth = s.cells.pulseWidth) (fun _ hu => hu) ?_ his rfl h
  rintro i u v ⟨hi, hq⟩ hu he
  exact (hi.pulseWidth_eq (.inl hq) (exec_effect he)).trans hu

theorem pulseWidth_eq_of_fatalFree {is : List Instr} {s t : State}
    (his : ∀ i ∈ is, SparesWidth i ∧ ∀ l v, i ≠ .fatal l v) (hs : FatalFree s)
    (h : applyAll is s = .next t) : t.cells.pulseWidth = s.cells.pulseWidth := by
  refine (applyAll_keeps (Q := fun i => SparesWidth i ∧ ∀ l v, i ≠ .fatal l v)
    (P := fun u => u.cells.pulseWidth = s.cells.pulseWidth ∧ FatalFree u) (fun _ hu => hu) ?_ his
    ⟨rfl, hs⟩ h).1
  rintro i u v ⟨hi, hnofatal⟩ ⟨hu, hfree⟩ he
  have ⟨hoff, _⟩ := hfree
  exact ⟨(hi.pulseWidth_eq (.inr hoff) (exec_effect he)).trans hu,
    (exec_effect he).fatalFree hnofatal hfree⟩

/-! ### The invariants on every run (R47, R254) -/

/-- What a run keeps while the external collaborator writes only `DRIVE_CMD` (R28): R47's
invariants, the setpoints' agreement, and what lets the next step keep them. -/
structure OwnedInvariants (s : State) : Prop where
  owned : s.extWritesOnlyCmd = true ∨ ∀ w ∈ s.trace, putsOnlyCmd w = true
  invariant47 : Invariant47 s
  setpoints : SetpointsMatchState s

theorem ownedInvariants_step {s t : State} (hs : OwnedInvariants s) (h : step s = .next t) :
    OwnedInvariants t := by
  obtain ⟨howned, hinv, hset⟩ := hs
  have hword : WritesOnlyCmd s := howned.imp_right fun hw w hmem => hw w (List.mem_of_mem_take hmem)
  obtain ⟨hinv', hflag, -⟩ := invariantsKept s t hword hinv h
  refine ⟨?_, hinv', setpointsMatchKept s t hword hset h⟩
  obtain ⟨w, htrace⟩ := step_trace h
  rcases howned with hset | hwords
  · exact .inl (hflag.trans hset)
  · exact .inr fun v hv => hwords v (htrace ▸ List.mem_cons_of_mem w hv)

theorem ownedInvariants_run {s t : State} {k : Nat} (hs : OwnedInvariants s)
    (h : Host.Core.run Sys2Proof.core k s = .next t) : Invariant47 t ∧ SetpointsMatchState t :=
  have ht := run_keeps (fun _ _ hs h => ownedInvariants_step hs h) k s t hs h
  ⟨ht.invariant47, ht.setpoints⟩

/-! ### The obligations -/

/-- Settles O46: the word is taken and decoded, or there is none. -/
theorem stepRunsDecodedInstruction : Obligations.StepRunsDecodedInstruction := by
  refine ⟨fun s w rest i htrace hd => step_of_decode_ok htrace hd, fun s htrace => ?_⟩
  rw [step, htrace]

/-- Settles O11: the operand is a value of the cell's type, and the cell is not `DRIVE_CMD`. -/
theorem ownershipFlagRefusesForeignPut : Obligations.OwnershipFlagRefusesForeignPut :=
  ⟨fun _ _ hflag hv =>
      exec_put_notDesignatedWriter (cell := .edgePhase) (putValue_edgePhase hv) hflag nofun,
    fun _ _ hflag => ⟨exec_put_notDesignatedWriter (cell := .pulseWidth) rfl hflag nofun,
      exec_put_notDesignatedWriter (cell := .motorSp) rfl hflag nofun,
      exec_put_notDesignatedWriter (cell := .steerSp) rfl hflag nofun⟩⟩

/-- Settles O49: by induction on the list, one word and one operation at a time. -/
theorem runOfTraceAppliesOperations : Obligations.RunOfTraceAppliesOperations :=
  fun _ s his => run_traceWords his s

/-- Settles O28: the reset state is what `do_reset()` leaves of it. -/
theorem setpointsMatchAtReset : Obligations.SetpointsMatchAtReset :=
  setpointsMatchState_doReset State.reset

/-- Settles O50: the reset state is what `do_reset()` leaves of it. -/
theorem invariantsHoldAtReset : Obligations.InvariantsHoldAtReset := invariant47_doReset State.reset

/-- Settles O52: the reset state has the invariants whatever its trace, and every step keeps
them. -/
theorem invariantsHoldOnEveryRun : Obligations.InvariantsHoldOnEveryRun := by
  refine ⟨fun ws k t hws h => ?_, fun s k t howned hinv hset h =>
    ownedInvariants_run ⟨howned, hinv, hset⟩ h⟩
  have hreset : OwnedInvariants { State.reset with trace := ws } :=
    ⟨.inr hws, invariantsHoldAtReset, setpointsMatchAtReset⟩
  exact ownedInvariants_run hreset h

/-- Settles O57: with no quantum in the list no operation of it writes the pulse width; with the
watchdog not armed and the loop states recognised that stays so (`Effect.fatalFree`), and no quantum
writes it either. -/
theorem noCaptureLeavesWidthStale : Obligations.NoCaptureLeavesWidthStale := by
  intro is s t his hq h
  rcases hq with hnoq | ⟨hoff, hrec, hnofatal⟩
  · exact pulseWidth_eq_of_no_quantum (fun i hi => ⟨his i hi, hnoq i hi⟩) h
  · exact pulseWidth_eq_of_fatalFree (fun i hi => ⟨his i hi, hnofatal i hi⟩) ⟨hoff, hrec⟩ h

end Sys2Proof.Machine

/-! ## The dispatcher's runs: boot, `RUNALL`, quanta (R163, R168, R171, R240, R243)

A list of `DISPATCH`es is the list of `STEP`s of the ready loops by priority, cut to its length
(`applyAll_dispatches`); the setup steps commute (`setUp_comm`); a list of quanta counts down by its
length (`applyAll_quanta`). -/

namespace Sys2Proof.Machine

open Sys2Proof

/-! ### Loops that run -/

theorem NonZero16.val_ne_zero (x : NonZero16) : x.val ≠ 0#16 := by
  intro h
  have hpos := x.one_le
  simp [h] at hpos

/-- Every loop can be stepped: the block is not frozen and holds recognised loop states. -/
abbrev Runnable (s : State) : Prop := s.fatalF = false ∧ RecognisedStates s

theorem wake_iterate {l : LoopId} {s : State} (h : l.recognises (s.st.get l) = true) :
    (iterate l s).wake = s.wake.set l (s.cfg.period.get l).val := by
  obtain ⟨hwake, -⟩ := body_keeps l s
  rw [iterate_of_recognised h, State.setWake_wake, hwake]

theorem runnable_iterate {s : State} (hs : Runnable s) (l : LoopId) : Runnable (iterate l s) := by
  obtain ⟨hf, hrec⟩ := hs
  have hl := RecognisedStates.recognises hrec l
  have hstep : RecognisedStates (body l s).2 := (loopStep_body hl).recognisedStates hrec
  refine ⟨(iterate_fatalF_of_recognised hl).trans hf, ?_⟩
  rw [iterate_of_recognised hl]
  exact hstep

theorem cfg_iterate (l : LoopId) (s : State) : (iterate l s).cfg = s.cfg := by
  obtain ⟨-, hcfg, -⟩ := body_keeps l s
  rcases iterate_cases l s with ⟨-, e⟩ | ⟨-, e⟩ <;> simp [e, hcfg]

theorem result_iterate (l : LoopId) (s : State) : (iterate l s).result = s.result := by
  obtain ⟨-, -, -, hresult, -⟩ := body_keeps l s
  rcases iterate_cases l s with ⟨-, e⟩ | ⟨-, e⟩ <;> simp [e, hresult]

/-- The operations that step the loops of a list in order. -/
def stepsOf (ls : List LoopId) : List Instr := ls.map fun l => .step l.index

theorem applyAll_stepsOf_cons {l : LoopId} {s : State} (hf : s.fatalF = false)
    (hres : s.result = none) (ls : List LoopId) :
    applyAll (stepsOf (l :: ls)) s = applyAll (stepsOf ls) (iterate l s) :=
  applyAll_cons_of_result hres (exec_step_index hf l) (stepsOf ls)

/-- Stepping loops runs through and reloads the wake counter of each loop stepped, of no other. -/
theorem applyAll_stepsOf (ls : List LoopId) {s : State} (hs : Runnable s) (hres : s.result = none) :
    ∃ u, applyAll (stepsOf ls) s = .next u ∧ u.result = none ∧
      ∀ l, u.wake.get l = if l ∈ ls then (s.cfg.period.get l).val else s.wake.get l := by
  induction ls generalizing s with
  | nil => exact ⟨s, rfl, hres, fun l => by simp⟩
  | cons l ls ih =>
    have ⟨hf, hrec⟩ := hs
    obtain ⟨u, hu, hures, hwake⟩ := ih (runnable_iterate hs l) ((result_iterate l s).trans hres)
    refine ⟨u, (applyAll_stepsOf_cons hf hres ls).trans hu, hures, fun m => ?_⟩
    rw [hwake, cfg_iterate, wake_iterate (RecognisedStates.recognises hrec l), LoopBank.get_set]
    by_cases hml : m = l
    · simp [hml]
    · simp [hml]

/-! ### `DISPATCH`es are `STEP`s by priority (R163, R171) -/

/-- The ready loops, the one with the largest priority first. -/
structure ServingOrder (s : State) (ls : List LoopId) : Prop where
  mem_iff : ∀ l, l ∈ ls ↔ s.wake.get l = 0#16
  sorted : ls.Pairwise fun l m => LoopId.prio m < LoopId.prio l

theorem ServingOrder.highest {s : State} {l : LoopId} {ls : List LoopId}
    (h : ServingOrder s (l :: ls)) (m : LoopId) (hm : s.wake.get m = 0#16) :
    LoopId.prio m ≤ LoopId.prio l := by
  obtain ⟨hmem, hsorted⟩ := h
  rcases List.mem_cons.1 ((hmem m).2 hm) with rfl | htail
  · exact Nat.le_refl _
  · exact Nat.le_of_lt ((List.pairwise_cons.1 hsorted).1 m htail)

/-- The iteration of the first loop makes it not ready, and the others stay in order. -/
theorem ServingOrder.tail {s : State} {l : LoopId} {ls : List LoopId}
    (h : ServingOrder s (l :: ls)) (hl : l.recognises (s.st.get l) = true) :
    ServingOrder (iterate l s) ls := by
  obtain ⟨hmem, hsorted⟩ := h
  obtain ⟨hless, hsorted⟩ := List.pairwise_cons.1 hsorted
  refine ⟨fun m => ?_, hsorted⟩
  rw [wake_iterate hl, LoopBank.get_set]
  by_cases hml : m = l
  · subst hml
    simpa [NonZero16.val_ne_zero] using fun hm => Nat.lt_irrefl _ (hless m hm)
  · simpa [hml] using hmem m

/-- A list of `DISPATCH`es steps the ready loops by priority, as many as it is long, and is idle
once none is left. -/
theorem applyAll_dispatches (k : Nat) {s : State} {ls : List LoopId} (hs : Runnable s)
    (hres : s.result = none) (h : ServingOrder s ls) :
    applyAll (List.replicate k .dispatch) s = applyAll (stepsOf (ls.take k)) s := by
  induction k generalizing s ls with
  | zero => rfl
  | succ k ih =>
    have ⟨hf, hrec⟩ := hs
    rw [List.replicate_succ]
    cases ls with
    | nil =>
      have hidle : ∀ l, s.wake.get l ≠ 0#16 := fun l hl => List.not_mem_nil ((h.mem_iff l).2 hl)
      rw [applyAll_cons_of_result hres (exec_dispatch_of_idle hidle), ih hs hres h]
      simp
    | cons l ls =>
      have hready : s.wake.get l = 0#16 := (h.mem_iff l).1 (List.mem_cons_self ..)
      rw [applyAll_cons_of_result hres (exec_dispatch_of_highest hf hready h.highest),
        ih (runnable_iterate hs l) ((result_iterate l s).trans hres)
          (h.tail (RecognisedStates.recognises hrec l)),
        List.take_succ_cons, applyAll_stepsOf_cons hf hres]

/-- All loops, the one with the largest priority first (R161, D11). -/
def byPriority : List LoopId := [.motor, .steer, .car, .echo]

/-- The ready loops of a state by priority. -/
def readyByPriority (s : State) : List LoopId := byPriority.filter fun l => s.wake.get l = 0#16

theorem servingOrder_readyByPriority (s : State) : ServingOrder s (readyByPriority s) := by
  have hall : ∀ l, l ∈ byPriority := fun l => by cases l <;> decide
  have hsorted : byPriority.Pairwise fun l m => LoopId.prio m < LoopId.prio l := by decide
  exact ⟨fun l => by simp [readyByPriority, hall l], hsorted.filter _⟩

/-! ### Boot (R240) -/

theorem runnable_doReset (s : State) : Runnable (doReset s) := ⟨rfl, recognisedStates_doReset s⟩

theorem servingOrder_doReset (s : State) : ServingOrder (doReset s) byPriority := by
  have h := servingOrder_readyByPriority (doReset s)
  have hall : ∀ l ∈ byPriority, decide ((doReset s).wake.get l = 0#16) = true :=
    fun l _ => decide_eq_true (doReset_wake_get l s)
  rwa [readyByPriority, List.filter_eq_self.2 hall] at h

/-- After reset every loop is ready: `DISPATCH`es step them by priority. -/
theorem applyAll_reset_dispatches (k : Nat) (s : State) :
    applyAll (.reset :: List.replicate k .dispatch) s =
      applyAll (.reset :: stepsOf (byPriority.take k)) s :=
  applyAll_dispatches k (runnable_doReset _) rfl (servingOrder_doReset { s with result := none })

/-! ### The setup steps (R243) -/

/-- The step of each loop in state 0 (R84). -/
def setupStep : LoopId → State → State
  | .echo => echoSetup
  | .car => carInit
  | .motor => motorSetup
  | .steer => steerSetup

/-- An iteration of a loop in state 0. -/
def setUp (l : LoopId) (s : State) : State :=
  setWake l (s.cfg.period.get l).val (setupStep l s)

theorem body_of_setup {l : LoopId} {s : State} (h : s.st.get l = 0#8) :
    body l s = (true, setupStep l s) := by
  have h0 : (s.st.get l).toNat = 0 := by simp [h]
  cases l with
  | echo => rw [body_echo, if_pos (by exact h0)]; rfl
  | car => rw [body_car, if_pos (by exact h0)]; rfl
  | motor => rw [body_motor, if_pos (by exact h0)]; rfl
  | steer => rw [body_steer, if_pos (by exact h0)]; rfl

theorem iterate_of_setup {l : LoopId} {s : State} (h : s.st.get l = 0#8) :
    iterate l s = setUp l s := by
  have hrec : l.recognises (s.st.get l) = true := by rw [h]; cases l <;> rfl
  rw [iterate_of_recognised hrec, body_of_setup h, setUp]

/-- Two setup iterations write different elements, from parameters that neither writes. -/
theorem setUp_comm (l m : LoopId) (s : State) : setUp l (setUp m s) = setUp m (setUp l s) := by
  cases l <;> cases m <;> rfl

theorem setUp_fatalF (l : LoopId) (s : State) : (setUp l s).fatalF = s.fatalF := by
  cases l <;> rfl

theorem setUp_result (l : LoopId) (s : State) : (setUp l s).result = s.result := by
  cases l <;> rfl

theorem setUp_st (l : LoopId) (s : State) :
    (setUp l s).st = s.st.set l (if l = .car then 2#8 else 1#8) := by
  cases l <;> rfl

theorem setUp_st_get {l m : LoopId} (h : m ≠ l) (s : State) :
    (setUp l s).st.get m = s.st.get m := by
  rw [setUp_st, LoopBank.get_set_other _ _ h]

/-- The setup iterations of the loops of a list, in order. -/
def setUpAll (ls : List LoopId) (s : State) : State := ls.foldl (fun t l => setUp l t) s

theorem setUpAll_perm {ls ms : List LoopId} (h : ls.Perm ms) (s : State) :
    setUpAll ls s = setUpAll ms s :=
  haveI : RightCommutative fun (t : State) (l : LoopId) => setUp l t :=
    ⟨fun t l m => setUp_comm m l t⟩
  h.foldl_eq s

/-- Stepping different loops that are all in state 0 is their setup iterations. -/
theorem applyAll_stepsOf_setup {ls : List LoopId} (hnodup : ls.Nodup) {s : State}
    (hf : s.fatalF = false) (hres : s.result = none) (hst : ∀ l ∈ ls, s.st.get l = 0#8) :
    applyAll (stepsOf ls) s = .next (setUpAll ls s) := by
  induction ls generalizing s with
  | nil => rfl
  | cons l ls ih =>
    obtain ⟨hl, hnodup⟩ := List.nodup_cons.1 hnodup
    obtain ⟨hstl, hst⟩ := List.forall_mem_cons.1 hst
    rw [applyAll_stepsOf_cons hf hres, iterate_of_setup hstl]
    refine ih hnodup ((setUp_fatalF l s).trans hf) ((setUp_result l s).trans hres) fun m hm => ?_
    rw [setUp_st_get (ne_of_mem_of_not_mem hm hl), hst m hm]

theorem LoopId.index_injective : Function.Injective LoopId.index := by
  intro l m h
  have hof := congrArg LoopId.ofIndex h
  simpa using hof

/-- A permutation of `STEP`s steps a permutation of the loops. -/
theorem exists_stepsOf_of_perm {is : List Instr} {ls : List LoopId} (h : is.Perm (stepsOf ls)) :
    ∃ ms, ms.Perm ls ∧ is = stepsOf ms := by
  have hrange : ∀ i ∈ is, ∃ l : LoopId, .step l.index = i := fun i hi => by
    obtain ⟨l, -, hl⟩ := List.mem_map.1 (h.mem_iff.1 hi)
    exact ⟨l, hl⟩
  obtain ⟨ms, rfl⟩ : is ∈ Set.range (List.map fun l : LoopId => Instr.step l.index) := by
    rw [Set.range_list_map]
    exact hrange
  have hinj : Function.Injective fun l : LoopId => Instr.step l.index :=
    fun l m e => LoopId.index_injective (Instr.step.inj e)
  exact ⟨ms, (List.map_perm_map_iff hinj).1 h, rfl⟩

/-! ### Quanta (R162, R168) -/

/-- `k` quanta at none of which the watchdog expires. -/
def afterQuanta (k : Nat) (s : State) : State :=
  { s with
    wake := s.wake.map fun v => BitVec.ofNat 16 (v.toNat - k)
    wdtCnt := if s.wdtArmed then BitVec.ofNat 16 (s.wdtCnt.toNat - k) else s.wdtCnt }

theorem ofNat_toNat_sub_sub (v : Word) (j k : Nat) :
    BitVec.ofNat 16 ((BitVec.ofNat 16 (v.toNat - j)).toNat - k) =
      BitVec.ofNat 16 (v.toNat - (j + k)) := by
  have hv := v.isLt
  rw [BitVec.toNat_ofNat, Nat.mod_eq_of_lt (by omega), Nat.sub_sub]

theorem afterQuanta_zero (s : State) : afterQuanta 0 s = s := by
  simp [afterQuanta, LoopBank.map]

theorem afterQuanta_afterQuanta (j k : Nat) (s : State) :
    afterQuanta k (afterQuanta j s) = afterQuanta (j + k) s := by
  cases h : s.wdtArmed <;>
    simp only [afterQuanta, LoopBank.map, ofNat_toNat_sub_sub, h, if_true, Bool.false_eq_true,
      if_false]

/-- A list of quanta, the watchdog not armed or its count larger than the list is long. -/
theorem applyAll_quanta (k : Nat) {s : State} (hres : s.result = none)
    (h : s.wdtArmed = false ∨ k < s.wdtCnt.toNat) :
    applyAll (List.replicate k .quantum) s = .next (afterQuanta k s) := by
  induction k generalizing s with
  | zero => rw [afterQuanta_zero]; rfl
  | succ k ih =>
    have hone : quantum s = afterQuanta 1 s := by
      rw [quantum_of_running (h.imp_right (by omega))]
      simp only [afterQuanta, LoopBank.map, countDown_eq_ofNat]
    have hrest : (afterQuanta 1 s).wdtArmed = false ∨ k < (afterQuanta 1 s).wdtCnt.toNat := by
      rcases h with hoff | hlt
      · exact .inl hoff
      · by_cases hon : s.wdtArmed = true
        · have hcnt := s.wdtCnt.isLt
          refine .inr ?_
          simp only [afterQuanta, hon, if_true, BitVec.toNat_ofNat]
          omega
        · exact .inl (Bool.eq_false_iff.2 hon)
    rw [List.replicate_succ, applyAll_cons_of_result hres (exec_quantum s), hone,
      ih (s := afterQuanta 1 s) hres hrest, afterQuanta_afterQuanta, Nat.add_comm]

/-- As many quanta as an armed watchdog counts restart the block. -/
theorem applyAll_quanta_expiring {s : State} (hres : s.result = none) (hon : s.wdtArmed = true)
    (hpos : 1 ≤ s.wdtCnt.toNat) :
    applyAll (List.replicate s.wdtCnt.toNat .quantum) s = .next (doReset s) := by
  obtain ⟨k, hk⟩ : ∃ k, s.wdtCnt.toNat = k + 1 := ⟨s.wdtCnt.toNat - 1, by omega⟩
  have hlast : (afterQuanta k s).wdtCnt.toNat ≤ 1 := by
    simp only [afterQuanta, hon, if_true, BitVec.toNat_ofNat]
    omega
  rw [hk, List.replicate_succ', applyAll_append (applyAll_quanta k hres (.inr (by omega))),
    applyAll_singleton, applyOp_of_result (s := afterQuanta k s) hres,
    exec_of_restarts (s := afterQuanta k s) (.inr ⟨rfl, hon, hlast⟩)]
  rfl

/-! ### The obligations -/

/-- Settles O3: after reset every loop is ready (`applyAll_reset_dispatches`), and after the four
iterations none is. -/
theorem bootRunsSetupStepsByPriority : Obligations.BootRunsSetupStepsByPriority := by
  intro s
  obtain ⟨t, ht, -, hwake⟩ :=
    applyAll_stepsOf byPriority (runnable_doReset { s with result := none }) rfl
  have hidle : ∀ l : LoopId, t.wake.get l ≠ 0#16 := fun l => by
    have hl : l ∈ byPriority := by cases l <;> decide
    rw [hwake, if_pos hl]
    exact NonZero16.val_ne_zero _
  exact ⟨t, (applyAll_reset_dispatches 4 s).trans ht, ht, applyAll_reset_dispatches 1 s,
    applyAll_reset_dispatches 2 s, applyAll_reset_dispatches 3 s, exec_dispatch_of_idle hidle⟩

/-- Settles O4: the setup iterations commute, so a permutation of them reaches the same state. -/
theorem setupOrderIrrelevant : Obligations.SetupOrderIrrelevant := by
  intro s is hst hf hperm
  obtain ⟨ls, hls, rfl⟩ := exists_stepsOf_of_perm (ls := LoopId.all) hperm
  have hsetup : ∀ ms : List LoopId, ms.Perm LoopId.all →
      applyAll (stepsOf ms) s = .next (setUpAll ms { s with result := none }) := fun ms hms => by
    have hne : stepsOf ms ≠ [] := by
      intro h
      obtain rfl : ms = [] := List.map_eq_nil_iff.1 h
      exact absurd hms.length_eq (by decide)
    have hall : LoopId.all.Nodup := by decide
    rw [← applyAll_cleared hne]
    exact applyAll_stepsOf_setup (hms.nodup_iff.2 hall) hf rfl
      fun l _ => by simp only [hst]; cases l <;> rfl
  exact ⟨_, hsetup ls hls, (hsetup LoopId.all (.refl _)).trans (by rw [setUpAll_perm hls])⟩

/-- Settles O36: `FATAL` loads the count that the quanta run down (`applyAll_quanta`,
`applyAll_quanta_expiring`). -/
theorem watchdogRestartsAfterTimeout : Obligations.WatchdogRestartsAfterTimeout := by
  intro l v s₀ s h
  obtain rfl : fatalResult s₀ l v = s := by simpa [exec_fatal] using h
  refine ⟨fun k hk => ?_, doReset { fatalResult s₀ l v with result := none }, ?_, rfl⟩
  · obtain ⟨r, hr⟩ := applyAll_of_cleared
      (applyAll_quanta k (s := { fatalResult s₀ l v with result := none }) rfl (.inr hk))
    exact ⟨_, hr, rfl, rfl, rfl, rfl, rfl, rfl⟩
  · have hpos : 1 ≤ (fatalResult s₀ l v).wdtCnt.toNat := s₀.cfg.wdtTimeout.one_le
    have hne : List.replicate (fatalResult s₀ l v).wdtCnt.toNat Instr.quantum ≠ [] := by
      rw [Ne, List.replicate_eq_nil_iff]
      omega
    exact (applyAll_cleared hne _).symm.trans 
      (applyAll_quanta_expiring (s := { fatalResult s₀ l v with result := none }) rfl rfl hpos)

/-- Settles O38: the four `DISPATCH`es step the ready loops by priority (`applyAll_dispatches`), and
each step reloads its loop's wake counter (`applyAll_stepsOf`). -/
theorem runAllServesEveryReadyLoop : Obligations.RunAllServesEveryReadyLoop := by
  intro s hf hrec
  have horder := servingOrder_readyByPriority s
  have horder' : ServingOrder { s with result := none } (readyByPriority s) :=
    ⟨horder.mem_iff, horder.sorted⟩
  have hs : Runnable { s with result := none } := ⟨hf, hrec⟩
  obtain ⟨t, ht, htres, hwake⟩ := applyAll_stepsOf (readyByPriority s) hs rfl
  have hwake' : ∀ l, t.wake.get l =
      if s.wake.get l = 0#16 then (s.cfg.period.get l).val else s.wake.get l := fun l => by
    rw [hwake]
    exact if_congr (horder.mem_iff l) rfl rfl
  have hlen : (readyByPriority s).length ≤ 4 := List.length_filter_le _ byPriority
  have hdispatches : applyAll Pseudo.runAll.expand s = .next t := by
    have h := applyAll_dispatches 4 hs rfl (ls := readyByPriority s) horder'
    rw [List.take_of_length_le hlen] at h
    exact h.trans ht
  obtain ⟨r, hr⟩ := applyAll_of_cleared ht
  refine ⟨readyByPriority s, t, { t with result := r }, horder.mem_iff, horder.sorted, hdispatches,
    hr, by rw [← htres], fun l => ⟨?_, hwake' l⟩⟩
  rw [hwake']
  split_ifs with hl
  · exact NonZero16.val_ne_zero _
  · exact hl

/-- Settles O39: the iteration loads the wake counter with the period, and the quanta run it
down. -/
theorem loopReadyAfterItsPeriod : Obligations.LoopReadyAfterItsPeriod := by
  intro s t l hoff hrec h k
  obtain ⟨loop, hloop, -, rfl⟩ := execStep_next h
  obtain rfl : l = loop := by simpa using hloop
  have hwake : (iterate l s).wake.get l = (s.cfg.period.get l).val := by
    rw [wake_iterate hrec, LoopBank.get_set_same]
  have hoff' : (iterate l s).wdtArmed = false := by
    rw [iterate_of_recognised hrec]
    exact (loopStep_body hrec).wdtArmed_eq.trans hoff
  obtain ⟨r, hr⟩ := applyAll_of_cleared
    (applyAll_quanta k (s := { iterate l s with result := none }) rfl (.inl hoff'))
  have hcount : ((afterQuanta k (iterate l s)).wake.get l).toNat =
      (s.cfg.period.get l).val.toNat - k := by
    have hlt := (s.cfg.period.get l).val.isLt
    rw [afterQuanta, LoopBank.get_map, hwake, BitVec.toNat_ofNat, Nat.mod_eq_of_lt (by omega)]
  refine ⟨_, hr, hcount, ?_⟩
  rw [← BitVec.toNat_inj]
  exact (congrArg (· = 0) hcount).to_iff.trans Nat.sub_eq_zero_iff_le

end Sys2Proof.Machine

/-! ## Runs of the echo-timing unit (R133, R139, R143, R246)

An edge that the edge sense selects, any ticks, and the `CAPTURE` that serves it are the handler at
the advanced count (`applyAll_servedEdge`); a pulse is two of them (`applyAll_pulse`). -/

namespace Sys2Proof.Machine

open Sys2Proof

/-! ### Ticks (R133) -/

theorem totalTicks_append (ns ms : List Word) :
    totalTicks (ns ++ ms) = totalTicks ns + totalTicks ms := by
  induction ns with
  | nil => simp [totalTicks]
  | cons n ns ih => rw [List.cons_append, totalTicks, totalTicks, ih, Nat.add_assoc]

/-- A list of ticks. -/
def ticksOf (ns : List Word) : List Instr := ns.map .tick

/-- What a list of ticks leaves of an armed unit: the timer advanced modulo 65536. -/
def ticked (ns : List Word) (s : State) : State :=
  { s with tcnt := BitVec.ofNat 16 (s.tcnt.toNat + totalTicks ns) }

theorem ticked_tcnt_toNat (ns : List Word) (s : State) :
    (ticked ns s).tcnt.toNat = (s.tcnt.toNat + totalTicks ns) % 65536 := BitVec.toNat_ofNat _ _

theorem ticked_nil (s : State) : ticked [] s = s := by
  simp [ticked, totalTicks]

theorem ticked_ticked (ns ms : List Word) (s : State) :
    ticked ms (ticked ns s) = ticked (ns ++ ms) s := by
  have hcount : BitVec.ofNat 16 ((s.tcnt.toNat + totalTicks ns) % 65536 + totalTicks ms) =
      BitVec.ofNat 16 (s.tcnt.toNat + totalTicks (ns ++ ms)) :=
    BitVec.eq_of_toNat_eq (by simp [totalTicks_append, Nat.add_assoc])
  rw [ticked, ticked_tcnt_toNat, hcount]
  rfl

/-- Ticks on an armed unit advance the timer and change nothing else. -/
theorem applyAll_ticksOf {s : State} (harmed : s.armed = true) (hres : s.result = none)
    (ns : List Word) : applyAll (ticksOf ns) s = .next (ticked ns s) := by
  induction ns generalizing s with
  | nil => rw [ticked_nil]; rfl
  | cons n ns ih =>
    have htick : exec (.tick n) s = .next (ticked [n] s) := exec_tick_of_armed harmed n
    rw [ticksOf, List.map_cons, applyAll_cons_of_result hres htick]
    exact (ih (s := ticked [n] s) harmed hres).trans (congrArg _ (ticked_ticked [n] ns s))

/-! ### Edges (R134, R246) -/

theorem edgeLevel_ofBool (v : Bool) : edgeLevel (if v then 1 else 0) = some v := by
  cases v <;> rfl

/-- While an interrupt is pending, edges change the level alone. -/
theorem applyAll_edges_pending {s : State} (hpending : s.capf = true) (hres : s.result = none)
    (levels : List Bool) :
    applyAll (levels.map fun v => .edge (if v then 1 else 0)) s =
      .next { s with echoIn := levels.getLast?.getD s.echoIn } := by
  induction levels generalizing s with
  | nil => rfl
  | cons v levels ih =>
    have hedge : exec (.edge (if v then 1 else 0)) s = .next { s with echoIn := v } := by
      rw [exec_edge_of_level (edgeLevel_ofBool v), hpending, Bool.true_or, ← hpending]
    rw [List.map_cons, applyAll_cons_of_result hres hedge,
      ih (s := { s with echoIn := v }) hpending hres, List.getLast?_cons, Option.getD_some]

/-- The edge sense does not select the edge: only the level changes (R134). -/
theorem exec_edge_unselected {s : State} {v : Word} {level : Bool}
    (hlevel : edgeLevel v = some level) (hsel : edgeSelected s.echoIn level s.es = false) :
    exec (.edge v) s = .next { s with echoIn := level } := by
  rw [exec_edge_of_level hlevel, hsel, Bool.or_false]

/-! ### Edges served by a `CAPTURE` (R135) -/

/-- The unit runs and its interrupt can be taken. -/
structure Listening (s : State) : Prop where
  armed : s.armed = true
  capie : s.capie = true
  ie : s.ie = true
  result : s.result = none

theorem Listening.ticked {s : State} (hs : Listening s) (ns : List Word) :
    Listening (ticked ns s) := ⟨hs.armed, hs.capie, hs.ie, hs.result⟩

theorem Listening.applyAll_ticksOf {s : State} (hs : Listening s) (ns : List Word)
    (js : List Instr) : applyAll (ticksOf ns ++ js) s = applyAll js (Machine.ticked ns s) :=
  applyAll_append (Machine.applyAll_ticksOf hs.armed hs.result ns) js

/-- A selected edge has arrived and is not served yet. -/
def pendingEdge (level : Bool) (s : State) : State := { s with echoIn := level, capf := true }

/-- A selected edge, any ticks until it is served, and the `CAPTURE` that serves it. -/
theorem applyAll_servedEdge {s : State} (hs : Listening s) {v : Word} {level : Bool}
    (hlevel : edgeLevel v = some level) (hsel : edgeSelected s.echoIn level s.es = true)
    (a : List Word) (js : List Instr) :
    applyAll (.edge v :: (ticksOf a ++ .capture :: js)) s =
      applyAll js (captureHandler (pendingEdge level (ticked a s))) := by
  have hedge : exec (.edge v) s = .next (pendingEdge level s) := by
    rw [exec_edge_of_level hlevel, hsel, Bool.or_true]; rfl
  have hpending : Listening (pendingEdge level s) := ⟨hs.armed, hs.capie, hs.ie, hs.result⟩
  have hcapture : exec .capture (pendingEdge level (ticked a s)) =
      .next (captureHandler (pendingEdge level (ticked a s))) :=
    exec_capture_of_enabled rfl hs.capie hs.ie
  rw [applyAll_cons_of_result hs.result hedge, hpending.applyAll_ticksOf]
  exact applyAll_cons_of_result (s := pendingEdge level (ticked a s)) hs.result hcapture js

/-- What an edge leaves once the fall arm has served it: the count in the width, and the unit ready
for the next pulse but for the level. -/
def recorded (level : Bool) (s : State) : State :=
  { s with
    cells := { s.cells with edgePhase := 0#8, pulseWidth := s.tcnt }, es := true, capf := false
    echoIn := level }

theorem captureHandler_pendingEdge_of_phase_ne_zero {s : State} (h : s.cells.edgePhase ≠ 0#8)
    (level : Bool) : captureHandler (pendingEdge level s) = recorded level s :=
  captureHandler_of_phase_ne_zero (s := pendingEdge level s) h

/-! ### A pulse (R138, R143) -/

/-- The unit waits for the rising edge of a pulse. -/
structure AwaitsPulse (s : State) : Prop extends Listening s where
  es : s.es = true
  phase : s.cells.edgePhase = 0#8
  low : s.echoIn = false

/-- The unit waits for the falling edge of a pulse. -/
structure AwaitsFall (s : State) : Prop extends Listening s where
  es : s.es = false
  phase : s.cells.edgePhase = 1#8
  high : s.echoIn = true

/-- What the rising edge of a pulse leaves, once the rise arm has served it. -/
def inPulse (s : State) : State :=
  { s with
    cells := { s.cells with edgePhase := 1#8 }, tcnt := 0#16, es := false, capf := false
    echoIn := true }

theorem AwaitsPulse.ticked {s : State} (hs : AwaitsPulse s) (ns : List Word) :
    AwaitsPulse (ticked ns s) := ⟨hs.toListening.ticked ns, hs.es, hs.phase, hs.low⟩

theorem AwaitsFall.ticked {s : State} (hs : AwaitsFall s) (ns : List Word) :
    AwaitsFall (ticked ns s) := ⟨hs.toListening.ticked ns, hs.es, hs.phase, hs.high⟩

theorem AwaitsPulse.inPulse {s : State} (hs : AwaitsPulse s) : AwaitsFall (inPulse s) :=
  ⟨⟨hs.armed, hs.capie, hs.ie, hs.result⟩, rfl, rfl, rfl⟩

theorem inPulse_ticked_tcnt_toNat (ns : List Word) (s : State) :
    (ticked ns (inPulse s)).tcnt.toNat = totalTicks ns % 65536 := by
  rw [ticked_tcnt_toNat, inPulse, BitVec.toNat_zero, Nat.zero_add]

theorem applyAll_servedRise {s : State} (hs : AwaitsPulse s) (a : List Word) (js : List Instr) :
    applyAll (.edge 1 :: (ticksOf a ++ .capture :: js)) s = applyAll js (inPulse s) := by
  have hsel : edgeSelected s.echoIn true s.es = true := by rw [hs.low, hs.es]; rfl
  rw [applyAll_servedEdge hs.toListening (level := true) rfl hsel,
    captureHandler_of_phase_zero (s := pendingEdge true (ticked a s)) hs.phase]
  rfl

theorem applyAll_servedFall {s : State} (hs : AwaitsFall s) (b : List Word) (js : List Instr) :
    applyAll (.edge 0 :: (ticksOf b ++ .capture :: js)) s =
      applyAll js (recorded false (ticked b s)) := by
  have hsel : edgeSelected s.echoIn false s.es = true := by rw [hs.high, hs.es]; rfl
  have hphase : (ticked b s).cells.edgePhase ≠ 0#8 := by rw [(hs.ticked b).phase]; decide
  rw [applyAll_servedEdge hs.toListening (level := false) rfl hsel,
    captureHandler_pendingEdge_of_phase_ne_zero hphase]

/-- A pulse whose edges are served with the latencies `a` and `b`: the rise arm clears the timer
after `a`, and the fall arm reads it after `b` (R136, R137). -/
theorem applyAll_pulse {s : State} (hs : AwaitsPulse s) (a m b : List Word) (js : List Instr) :
    applyAll
        (.edge 1 :: (ticksOf a ++ .capture ::
          (ticksOf m ++ .edge 0 :: (ticksOf b ++ .capture :: js)))) s =
      applyAll js (recorded false (ticked (m ++ b) (inPulse s))) := by
  rw [applyAll_servedRise hs, hs.inPulse.applyAll_ticksOf,
    applyAll_servedFall (hs.inPulse.ticked m), ticked_ticked]

/-- A pulse whose edges are served at once is recorded with its width. -/
theorem AwaitsPulse.exists_measured {s : State} (hs : AwaitsPulse s) (a m : List Word) :
    ∃ t, applyAll (ticksOf a ++ .edge 1 :: .capture :: (ticksOf m ++ [.edge 0, .capture])) s =
        .next t ∧
      t.cells.pulseWidth.toNat = totalTicks m % 65536 ∧ t.cells.edgePhase = 0#8 := by
  have hrun := applyAll_pulse (hs.ticked a) [] m [] []
  rw [List.append_nil] at hrun
  exact ⟨_, (hs.toListening.applyAll_ticksOf a _).trans hrun, inPulse_ticked_tcnt_toNat m _, rfl⟩

/-! ### The setup step and the seed (R131, R139) -/

theorem listening_setUp_echo {s : State} (hie : s.ie = true) (hres : s.result = none) :
    Listening (setUp .echo s) := ⟨rfl, rfl, hie, hres⟩

theorem applyAll_step_echo_setup {s : State} (hst : s.st.echo = 0#8) (hf : s.fatalF = false)
    (js : List Instr) :
    applyAll (.step 0 :: js) s = applyAll js (setUp .echo { s with result := none }) := by
  have hstep : applyOp (.step 0) s = .next (setUp .echo { s with result := none }) := by
    rw [← iterate_of_setup (l := .echo) (s := { s with result := none }) hst]
    exact exec_step_index (s := { s with result := none }) hf .echo
  exact applyAll_cons hstep js

/-- What the first pulse leaves when its rising edge is served by the fall arm and the edge sense
does not select its falling edge, `a` the ticks before it and `m` its width. -/
def missedPulse (a m : List Word) (s : State) : State :=
  { ticked m (recorded true (ticked a s)) with echoIn := false }

/-- With the phase 1 and the rising sense, as seed 1 sets them up, the rising edge records the
count, and the unit then waits for the next pulse (R139 (b)). -/
theorem applyAll_missedPulse {s : State} (hs : Listening s) (hes : s.es = true)
    (hphase : s.cells.edgePhase = 1#8) (hlow : s.echoIn = false) (a m : List Word) :
    applyAll (ticksOf a ++ .edge 1 :: .capture :: (ticksOf m ++ [.edge 0])) s =
      .next (missedPulse a m s) := by
  have hsel : edgeSelected s.echoIn true s.es = true := by rw [hlow, hes]; rfl
  have hone : (ticked a s).cells.edgePhase = 1#8 := hphase
  have hne : (ticked a s).cells.edgePhase ≠ 0#8 := by rw [hone]; decide
  have hlisten : Listening (recorded true (ticked a s)) := ⟨hs.armed, hs.capie, hs.ie, hs.result⟩
  calc applyAll (ticksOf a ++ .edge 1 :: .capture :: (ticksOf m ++ [.edge 0])) s
    _ = applyAll (.edge 1 :: (ticksOf [] ++ .capture :: (ticksOf m ++ [.edge 0]))) (ticked a s) :=
      hs.applyAll_ticksOf a _
    _ = applyAll (ticksOf m ++ [.edge 0]) (recorded true (ticked a s)) := by
      rw [applyAll_servedEdge (hs.ticked a) (level := true) rfl hsel, ticked_nil,
        captureHandler_pendingEdge_of_phase_ne_zero hne]
    _ = applyAll [.edge 0] (ticked m (recorded true (ticked a s))) := hlisten.applyAll_ticksOf m _
    _ = .next (missedPulse a m s) :=
      applyAll_cons_of_result (hlisten.ticked m).result
        (exec_edge_unselected (level := false) rfl rfl) []

theorem awaitsPulse_missedPulse {s : State} (hs : Listening s) (a m : List Word) :
    AwaitsPulse (missedPulse a m s) := ⟨⟨hs.armed, hs.capie, hs.ie, hs.result⟩, rfl, rfl, rfl⟩

/-! ### The obligations -/

/-- Settles O6: `applyAll_ticksOf`, the count written as the sum modulo 65536. -/
theorem ticksAccumulate : Obligations.TicksAccumulate := by
  intro ns s harmed
  obtain ⟨r, hr⟩ :=
    applyAll_of_cleared (applyAll_ticksOf (s := { s with result := none }) harmed rfl ns)
  have hcount : BitVec.ofNat 16 ((s.tcnt.toNat + totalTicks ns) % 65536) = (ticked ns s).tcnt :=
    BitVec.eq_of_toNat_eq (by simp [ticked])
  exact ⟨_, hr, by rw [hcount]; rfl⟩

/-- Settles O19: a list of edges on a pending interrupt (`applyAll_edges_pending`). -/
theorem edgesWhilePendingAreOneInterrupt : Obligations.EdgesWhilePendingAreOneInterrupt := by
  intro s levels hpending
  obtain ⟨r, hr⟩ := applyAll_of_cleared
    (applyAll_edges_pending (s := { s with result := none }) hpending rfl levels)
  exact ⟨_, hr, rfl⟩

/-- Settles O17: what a pulse records (`applyAll_pulse`) is the ticks between its two captures, the
true width less the first latency plus the second. -/
theorem pulseMeasuredWithLatency : Obligations.PulseMeasuredWithLatency := by
  intro s a m b harmed hcapie hie hes hphase hlow
  have hs : AwaitsPulse { s with result := none } :=
    ⟨⟨harmed, hcapie, hie, rfl⟩, hes, hphase, hlow⟩
  refine ⟨recorded false (ticked (m ++ b) (inPulse { s with result := none })), ?_, ?_, ?_⟩
  · simp only [List.append_assoc, List.cons_append, List.nil_append]
    exact applyAll_pulse hs a m b []
  · rw [recorded, inPulse_ticked_tcnt_toNat, totalTicks_append, totalTicks_append]
    omega
  · simp only [recorded, ticked, inPulse, ← hphase, ← hes, ← hlow]

/-- Settles O18: with seed 0 the setup step leaves a unit that waits for a pulse; with seed 1 the
unit does so only after the first pulse (`applyAll_missedPulse`). -/
theorem seedDecidesFirstMeasurement : Obligations.SeedDecidesFirstMeasurement := by
  refine ⟨fun s a m hst hf hie hlow hseed => ?_, fun s a m g w hst hf hie hlow htcnt hseed => ?_⟩
  · have hlisten := listening_setUp_echo (s := { s with result := none }) hie rfl
    have hphase : phaseSeed s.cfg = 0#8 := by simp [phaseSeed, hseed]
    have hs : AwaitsPulse (setUp .echo { s with result := none }) := ⟨hlisten, rfl, hphase, hlow⟩
    obtain ⟨t, ht, hwidth, hzero⟩ := hs.exists_measured a m
    refine ⟨t, ?_, hwidth, hzero⟩
    simp only [List.append_assoc, List.cons_append, List.nil_append]
    rw [applyAll_step_echo_setup hst hf]
    exact ht
  · have hlisten := listening_setUp_echo (s := { s with result := none }) hie rfl
    have hphase : phaseSeed s.cfg = 1#8 := by simp [phaseSeed, hseed]
    obtain ⟨u, hu, hwidth, hzero⟩ := (awaitsPulse_missedPulse hlisten a m).exists_measured g w
    refine ⟨missedPulse a m (setUp .echo { s with result := none }), u, ?_, ?_, rfl, rfl, rfl, ?_,
      hwidth, hzero⟩
    · simp only [List.append_assoc, List.cons_append, List.nil_append]
      rw [applyAll_step_echo_setup hst hf]
      exact applyAll_missedPulse hlisten rfl hphase hlow a m
    · have hstart : (setUp .echo { s with result := none }).tcnt = 0#16 := htcnt
      have hcount := ticked_tcnt_toNat a (setUp .echo { s with result := none })
      rwa [hstart, BitVec.toNat_zero, Nat.zero_add] at hcount
    · simp only [List.append_assoc, List.cons_append, List.nil_append]
      exact hu

end Sys2Proof.Machine

/-! ## The arbiter's table and information flow, split accesses (R187, R118, R244)

An iteration of CAR in a recognised state enters the state that the command chooses, with the
setpoints of that state (`exec_step_car`). -/

namespace Sys2Proof.Machine

open Sys2Proof

/-! ### The loop CAR (R180, R187) -/

/-- An iteration of CAR that enters the state `n` writes its number, its setpoints and the wake
counter. -/
theorem exec_step_car {s : State} {n : CarState} (hf : s.fatalF = false)
    (h : body .car s = (true, enterCar n s)) :
    exec (.step 1) s = .next (carResult s n.code (setpointsOf n s).1 (setpointsOf n s).2) := by
  have hiter : iterate .car s =
      carResult s n.code (setpointsOf n s).1 (setpointsOf n s).2 := by
    simp only [iterate, h, if_true]
    rw [enterCar_eq]
    rfl
  rw [← hiter]
  exact exec_step_index hf .car

theorem exec_step_car_of_setup {s : State} (hf : s.fatalF = false) (hst : s.st.car = 0#8) :
    exec (.step 1) s = .next (carResult s 2 0 0) :=
  exec_step_car (n := .stopped) hf (body_of_setup (l := .car) hst)

theorem body_car_driving {s : State} (hst : s.st.car = 1#8) :
    body .car s = (true, enterCar (nextFromDriving s.cells.driveCmd) s) := by
  rw [body_car, hst, ← carStep_eq]
  rfl

theorem body_car_stopped {s : State} (hst : s.st.car = 2#8) :
    body .car s = (true, enterCar (nextFromStopped s.cells.driveCmd) s) := by
  rw [body_car, hst, ← carStep_eq]
  rfl

theorem body_car_avoid {s : State} (hst : s.st.car = 3#8) :
    body .car s = (true, enterCar (nextFromAvoid s.cells.driveCmd) s) := by
  rw [body_car, hst, ← carStep_eq]
  rfl

theorem exec_step_car_stopped {s : State} (hf : s.fatalF = false)
    (h : body .car s = (true, enterCar .stopped s)) :
    exec (.step 1) s = .next (carResult s 2 0 0) := exec_step_car hf h

theorem exec_step_car_driving {s : State} (hf : s.fatalF = false)
    (h : body .car s = (true, enterCar .driving s)) :
    exec (.step 1) s = .next (carResult s 1 s.cfg.motorFwd.val 0) := exec_step_car hf h

/-- On the way into obstacle-avoid the width chooses the setpoints, and the threshold itself is
clear (R186). -/
theorem exec_step_car_avoid {s : State} (hf : s.fatalF = false)
    (h : body .car s = (true, enterCar .avoid s)) :
    (s.cells.pulseWidth.toNat < 150 →
      exec (.step 1) s = .next (carResult s 3 s.cfg.avoidMotorClose s.cfg.steerDeflect.val)) ∧
    (150 ≤ s.cells.pulseWidth.toNat →
      exec (.step 1) s = .next (carResult s 3 s.cfg.avoidMotorClear 0)) := by
  have hstep := exec_step_car hf h
  refine ⟨fun hclose => ?_, fun hclear => ?_⟩
  · rwa [setpointsOf, if_pos hclose] at hstep
  · rwa [setpointsOf, if_neg (Nat.not_lt.2 hclear)] at hstep

theorem ne_cmdStop_of_one_le {cmd : Byte} (h : 1 ≤ cmd.toNat) : cmd ≠ cmdStop := by
  rintro rfl
  exact absurd h (by decide)

/-- A command that is neither drive nor avoid: stop, or one that names nothing (R86). -/
theorem nextFromStopped_of_stop_or_unnamed {cmd : Byte} (h : cmd = 0#8 ∨ 3 ≤ cmd.toNat) :
    nextFromStopped cmd = .stopped := by
  have hdrive : cmd ≠ cmdDrive := by rintro rfl; exact absurd h (by decide)
  have havoid : cmd ≠ cmdAvoid := by rintro rfl; exact absurd h (by decide)
  exact nextFromStopped_of_ne hdrive havoid

/-- The state that a step of CAR enters depends on the drive command alone (R180). -/
theorem exec_carStep_eq {i : Instr}
    (hi : i ∈ [Instr.carInit, .carDriving, .carStopped, .carAvoid]) :
    ∃ choose : Byte → CarState, ∀ s, exec i s = .next (enterCar (choose s.cells.driveCmd) s) := by
  simp only [List.mem_cons, List.not_mem_nil, or_false] at hi
  rcases hi with rfl | rfl | rfl | rfl
  · exact ⟨fun _ => .stopped, exec_carInit⟩
  · exact ⟨nextFromDriving, exec_carDriving⟩
  · exact ⟨nextFromStopped, exec_carStopped⟩
  · exact ⟨nextFromAvoid, exec_carAvoid⟩

theorem setpointsOf_congr {s s' : State} (hpw : s.cells.pulseWidth = s'.cells.pulseWidth)
    (hcfg : s.cfg = s'.cfg) (n : CarState) : setpointsOf n s = setpointsOf n s' := by
  simp only [setpointsOf, hpw, hcfg]

/-! ### Split accesses (log 12) -/

theorem ofBytes_highByte_lowByte (w : Word) : ofBytes (highByte w) (lowByte w) = w := by
  rw [ofBytes, highByte, lowByte,
    BitVec.extractLsb'_append_extractLsb'_eq_extractLsb' (show 8 = 0 + 8 from rfl),
    BitVec.extractLsb'_eq_self]

theorem lowByte_ofBytes (high low : Byte) : lowByte (ofBytes high low) = low :=
  BitVec.extractLsb'_append_eq_right

/-- No capture interrupts a masked access (R116). -/
theorem interruptHere_of_masked {s : State} (h : s.ie = false) : interruptHere s = s := by
  simp [interruptHere, captureEnabled, h]

/-! ### The obligations -/

/-- Settles O26: the command chooses the state entered, and the width its setpoints in
obstacle-avoid. -/
theorem carTransitionTable : Obligations.CarTransitionTable := by
  intro s hf
  refine ⟨fun hst => ?_, fun hst hcmd => ?_, fun hst hcmd => ?_, fun hst hcmd => ?_,
    fun hst hcmd => ?_, fun hst hcmd => ?_, fun hst hcmd => ?_, fun hst hcmd => ?_,
    fun hst hcmd => ?_, fun hst hcmd => ?_, fun hst => ?_⟩
  · exact exec_step_car_of_setup hf hst
  · exact exec_step_car_driving hf (nextFromStopped_of_drive hcmd ▸ body_car_stopped hst)
  · exact (exec_step_car_avoid hf (nextFromStopped_of_avoid hcmd ▸ body_car_stopped hst)).1
  · exact (exec_step_car_avoid hf (nextFromStopped_of_avoid hcmd ▸ body_car_stopped hst)).2
  · exact exec_step_car_stopped hf
      (nextFromStopped_of_stop_or_unnamed hcmd ▸ body_car_stopped hst)
  · exact exec_step_car_stopped hf (nextFromDriving_of_stop hcmd ▸ body_car_driving hst)
  · exact exec_step_car_driving hf
      (nextFromDriving_of_ne (ne_cmdStop_of_one_le hcmd) ▸ body_car_driving hst)
  · exact exec_step_car_stopped hf (nextFromAvoid_of_stop hcmd ▸ body_car_avoid hst)
  · exact (exec_step_car_avoid hf
      (nextFromAvoid_of_ne (ne_cmdStop_of_one_le hcmd) ▸ body_car_avoid hst)).1
  · exact (exec_step_car_avoid hf
      (nextFromAvoid_of_ne (ne_cmdStop_of_one_le hcmd) ▸ body_car_avoid hst)).2
  · have hunrec : LoopId.car.recognises (s.st.get .car) = false :=
      decide_eq_false (Nat.not_lt.2 hst)
    exact (exec_step_index hf .car).trans
      (congrArg Host.Outcome.next (iterate_of_unrecognised hunrec))

/-- Settles O27: the command chooses the state entered (`exec_carStep_eq`), and the width and the
parameters its setpoints (`setpointsOf_congr`). -/
theorem carStepsDependOnCommandAndWidth : Obligations.CarStepsDependOnCommandAndWidth := by
  intro i s s' hi hcmd hpw hcfg
  obtain ⟨choose, hexec⟩ := exec_carStep_eq hi
  refine ⟨_, _, hexec s, hexec s', ?_⟩
  simp only [enterCar_eq, hcmd, setpointsOf_congr hpw hcfg, and_self]

/-- Settles O58: under the mask no handler runs at the interrupt point, so both bytes are of one
value. -/
theorem maskedSplitAccessIsWhole : Obligations.MaskedSplitAccessIsWhole := by
  refine ⟨fun s => ?_, fun v s => ?_⟩
  · have hquiet : interruptHere { s with ie := false } = { s with ie := false } :=
      interruptHere_of_masked rfl
    simp only [splitGet, if_true, hquiet, ofBytes_highByte_lowByte]
    rfl
  · simp only [splitPut, maskedBy, if_true, withMask_snd]
    rw [interruptHere_of_masked (by rfl), readCell_writeCell_same, lowByte_ofBytes,
      ofBytes_highByte_lowByte]
    rfl

/-- Settles O59: the handler of phase 1 puts the count into the width between the two bytes. -/
theorem unmaskedSplitReadTears : Obligations.UnmaskedSplitReadTears := by
  intro s hcapf hcapie hie hphase hpw htcnt
  have hne : s.cells.edgePhase ≠ 0#8 := by rw [hphase]; decide
  have hhere : interruptHere s = captureHandler s := by
    simp [interruptHere, captureEnabled, hcapf, hcapie, hie]
  have hafter : readCell .pulseWidth (interruptHere s) = 0x0100#16 := by
    rw [hhere, captureHandler_of_phase_ne_zero hne]
    exact htcnt
  have hbefore : readCell .pulseWidth s = 0x00FF#16 := hpw
  refine ⟨?_, hafter⟩
  simp only [splitGet, Bool.false_eq_true, if_false, hafter, hbefore]
  rfl

end Sys2Proof.Machine
